-- ==== Sys2Proof/Config.lean ====
section
/-! DEFINITION. What one build of the CORE fixes: the ten parameters of rule R6 (spec/00_scope.md), which the model takes
as an argument (rule R30), and the free values of power-on (rule R40 of spec/10_state.md, row I2 of
spec/93_implementation_defined.md). -/

namespace Sys2Proof.Config

/-- R6: the parameters of one build, under the spec's names. A machine's `State` carries its own (log 2), so `exec`, `step`
and every statement are for all values of them. -/
structure Params where
  /-- `W`: the width in bits of a timestamp and of every elapsed time -/
  W : Nat
  /-- `PULSE_LEVEL`: the input level during a pulse -/
  pulseLevel : BitVec 1
  /-- `T_WIN_LO`: inclusive lower bound of the pulse window, ms -/
  tWinLo : Nat
  /-- `T_WIN_HI`: exclusive upper bound of the pulse window, ms -/
  tWinHi : Nat
  /-- `T_SPLIT`: the pulse length at or above which a bit is One, ms -/
  tSplit : Nat
  /-- `T_SYNC`: strictly above it a pulse-start edge is the minute sync, ms -/
  tSync : Nat
  /-- `T_BOUNCE`: strictly below it a pulse-start edge retreats the cursor, ms -/
  tBounce : Nat
  /-- `T_DEBOUNCE`: strictly above it the timing baseline moves, ms -/
  tDebounce : Nat
  /-- `MIN_CURSOR`: at or below it a telegram is too short -/
  minCursor : Nat
  /-- `NORM_LAST`: the position normalize moves the last written bit to -/
  normLast : Nat
deriving DecidableEq, Repr

/-- R6: the constraints on the parameters. -/
abbrev Params.Valid (p : Params) : Prop :=
  12 ≤ p.W ∧ p.tWinLo < 2 ^ p.W ∧ p.tWinHi < 2 ^ p.W ∧ p.tSplit < 2 ^ p.W ∧ p.tSync < 2 ^ p.W ∧
    p.tBounce < 2 ^ p.W ∧ p.tDebounce < 2 ^ p.W ∧ 44 ≤ p.normLast ∧ p.normLast ≤ 59 ∧ p.minCursor ≤ 59

/-- R6: the defaults, the document's own literals (decisions D1, D2, D3, D8). -/
def params : Params where
  W := 32
  pulseLevel := 1
  tWinLo := 50
  tWinHi := 250
  tSplit := 150
  tSync := 1200
  tBounce := 300
  tDebounce := 300
  minCursor := 44
  normLast := 59

/-- R7, `CAPACITY`: the buffer holds exactly 60 bits. It is fixed, not a parameter. -/
abbrev capacity : Nat := 60

/-! ## Free values: the registers at power-on

R40: before the first INIT the value of every register is unspecified. Nothing in Lean can evaluate these. -/

opaque powerOnBits : BitVec 60
opaque powerOnCursor : BitVec 6
opaque powerOnTracking : Bool
opaque powerOnPrevLevel : BitVec 1
/-- of which the register holds the low `W` bits -/
opaque powerOnTBase : Nat
/-- of which the register holds the low `W` bits -/
opaque powerOnTPulse : Nat
opaque powerOnPf : BitVec 3

end Sys2Proof.Config
end

