-- ==== Sys2Proof/Word.lean ====
section
/-! DEFINITION. The word types of the CORE. Every value is unsigned (rule R8 of spec/00_scope.md). A timestamp or an elapsed
time in ms (R6, R13) is a `W`-bit number, and `W` differs from build to build, so its type is `Nat`; every time the CORE
takes in or computes is below `2^W` (log 1). -/

namespace Sys2Proof

/-- A level of the demodulated input, 1 bit (R24, R60). -/
abbrev Level := BitVec 1

/-- The telegram buffer's contents, 60 bits; bit 0 is the first received (R7, R21, R51). -/
abbrev Buffer := BitVec 60

/-- The buffer's write position, a 6-bit register that rules keep in 0 to 60 (R22). -/
abbrev Cursor := BitVec 6

/-- One word of the `cmd` port of a CORE with timestamps of `w` bits: `w + 3` bits (R32, R60). -/
abbrev CmdWord (w : Nat) := BitVec (w + 3)

end Sys2Proof
end

