-- ==== Sys2Proof/Syntax.lean ====
section
/-! DEFINITION. The commands and operations of spec/opcode_table.json, one constructor for each row. -/

namespace Sys2Proof

/-- R80: the two kinds of edge. -/
inductive EdgeKind where
  /-- S-edge: the previous observed level was the pause level -/
  | pulseStart
  /-- E-edge: the previous observed level was the pulse level -/
  | pulseEnd
deriving DecidableEq, Repr

/-- R68: why a telegram is finalized. -/
inductive FinalizeReason where
  /-- a minute-sync edge -/
  | sync
  /-- an append at a full buffer -/
  | overflow
deriving DecidableEq, Repr

/-- The rows of spec/opcode_table.json. The first four are the host commands, each one word of the `cmd` port
(R61). The next eight are the internal operations: they have no encoding, and EDGE, INIT and one another call them
(log 8). The last three are the assembler's pseudo-instructions, which expand to EDGE commands (R71, log 9). -/
inductive Instr where
  /-- NOP, a step with no event (R153) -/
  | nop
  /-- EDGE lv, ts: a transition to level `lv` at time `ts` (R93) -/
  | edge (lv : Level) (ts : Nat)
  /-- INIT (R152) -/
  | init
  /-- SNAP (R154) -/
  | snap
  /-- CLASSIFY(kind, elapsed, plen) (R82) -/
  | classify (kind : EdgeKind) (elapsed plen : Nat)
  /-- APPEND(b) (R100) -/
  | append (b : Bool)
  /-- RETREAT() (R102) -/
  | retreat
  /-- NORMALIZE(bits, cursor) (R104) -/
  | normalize (bits : Buffer) (cursor : Cursor)
  /-- RESET, the operation `buffer_reset()` (R106) -/
  | reset
  /-- FINALIZE(reason) (R120) -/
  | finalize (reason : FinalizeReason)
  /-- BCD(r), for a raw field value of `width` bits (R123) -/
  | bcd (width : Nat) (raw : BitVec width)
  /-- PARITY(n) (R140) -/
  | parity (n : Buffer)
  /-- PULSE t, w (R71) -/
  | pulse (t w : Nat)
  /-- BIT0 t (R71) -/
  | bit0 (t : Nat)
  /-- BIT1 t (R71) -/
  | bit1 (t : Nat)
deriving DecidableEq, Repr

/-- The `format` column of spec/opcode_table.json. -/
inductive Family where
  /-- format CMD: one word of the `cmd` port -/
  | host
  /-- format internal: no encoding -/
  | internal
  /-- format pseudo: two words, those of its expansion -/
  | pseudo
deriving DecidableEq, Repr

/-- The family of each row. -/
def Instr.family : Instr → Family
  | .nop => .host
  | .edge _ _ => .host
  | .init => .host
  | .snap => .host
  | .classify _ _ _ => .internal
  | .append _ => .internal
  | .retreat => .internal
  | .normalize _ _ => .internal
  | .reset => .internal
  | .finalize _ => .internal
  | .bcd _ _ => .internal
  | .parity _ => .internal
  | .pulse _ _ => .pseudo
  | .bit0 _ => .pseudo
  | .bit1 _ => .pseudo

/-- The row's mnemonic, as spec/opcode_table.json spells it. -/
def Instr.mnemonic : Instr → String
  | .nop => "NOP"
  | .edge _ _ => "EDGE"
  | .init => "INIT"
  | .snap => "SNAP"
  | .classify _ _ _ => "CLASSIFY"
  | .append _ => "APPEND"
  | .retreat => "RETREAT"
  | .normalize _ _ => "NORMALIZE"
  | .reset => "RESET"
  | .finalize _ => "FINALIZE"
  | .bcd _ _ => "BCD"
  | .parity _ => "PARITY"
  | .pulse _ _ => "PULSE"
  | .bit0 _ => "BIT0"
  | .bit1 _ => "BIT1"

end Sys2Proof
end

