-- ==== Sys2Proof/WellFormed.lean ====
section
/-! DEFINITION. Which terms of `Instr` the spec's operand lists allow, on a build with the parameters `p`. The types carry
the ranges that no parameter changes: a level is 1 bit, a buffer 60. -/

namespace Sys2Proof

/-- R60, R62, R70: a time is a `W`-bit unsigned number. -/
def timeOk (p : Config.Params) (t : Nat) : Bool :=
  decide (t < 2 ^ p.W)

/-- R104: finalize calls `normalize` only with a cursor of `MIN_CURSOR + 1` to 60. -/
def normalizeCursorOk (p : Config.Params) (cursor : Cursor) : Bool :=
  decide (p.minCursor + 1 ≤ cursor.toNat) && decide (cursor.toNat ≤ Config.capacity)

/-- R123: a raw BCD field is at most 8 bits wide. -/
def bcdWidthOk (width : Nat) : Bool :=
  decide (width ≤ 8)

/-- The operands of an instruction are in the ranges the spec gives them. -/
def Instr.wellFormed (p : Config.Params) : Instr → Bool
  | .nop => true
  | .edge _ ts => timeOk p ts
  | .init => true
  | .snap => true
  | .classify _ elapsed plen => timeOk p elapsed && timeOk p plen
  | .append _ => true
  | .retreat => true
  | .normalize _ cursor => normalizeCursorOk p cursor
  | .reset => true
  | .finalize _ => true
  | .bcd width _ => bcdWidthOk width
  | .parity _ => true
  | .pulse t w => timeOk p t && timeOk p w
  | .bit0 t => timeOk p t
  | .bit1 t => timeOk p t

end Sys2Proof
end

