-- ==== Sys2Proof/Decode.lean ====
section
/-! DEFINITION. The command word (rules R60 to R63 of spec/30_encoding.md): its fields, the decoder, and after it the
encoder and the expansion of the pseudo-instructions (R71). The decoder is defined for every timestamp width `w`, the
encoder for all parameters `p`. -/

namespace Sys2Proof

/-! ## The fields of a command word (R60) -/

/-- R60: `op = cmd[W+2:W+1]`. -/
def opField {w : Nat} (c : CmdWord w) : BitVec 2 := c.extractLsb' (w + 1) 2

/-- R60: `lv = cmd[W]`. -/
def lvField {w : Nat} (c : CmdWord w) : BitVec 1 := c.extractLsb' w 1

/-- R60: `ts = cmd[W-1:0]`. -/
def tsField {w : Nat} (c : CmdWord w) : BitVec w := c.extractLsb' 0 w

/-! ## The decoder -/

/-- R61, R150: every word is exactly one command, so decoding is total (R63). NOP, INIT and SNAP ignore the word's
other bits (R62). -/
def decode {w : Nat} (c : CmdWord w) : Instr :=
  if opField c = 0b00#2 then .nop
  else if opField c = 0b01#2 then .edge (lvField c) (tsField c).toNat
  else if opField c = 0b10#2 then .init
  else .snap

/-- What the port of a CORE with timestamps of `w` bits carries of a number: its low `w + 3` bits (R32). -/
def portWord (w n : Nat) : CmdWord w := BitVec.ofNat _ n

/-- Why a number is no command word. The `cmd` port has `W + 3` bits (R32), so a number with a higher bit set cannot
be presented on it. -/
inductive DecodeError where
  /-- a bit above bit `W + 2` is set -/
  | widerThanPort
deriving DecidableEq, Repr

/-- The decoder on a number: a word of the port, or a rejection by name (log 13). -/
def decodeNat (w n : Nat) : Except DecodeError Instr :=
  if n < 2 ^ (w + 3) then .ok (decode (portWord w n)) else .error .widerThanPort

/-- The decoder's answer on a table word. The table's words are those of the default `W` (R61): the 35 bits of a command
are one word on one port with no byte order (R53), and fill the low bits of the five bytes that `nbits` counts. -/
def decodeTableWord (_nbits w : Nat) : Option Instr :=
  match decodeNat Config.params.W w with
  | .ok i => some i
  | .error _ => none

/-! ## The encoder -/

/-- R70: `word = (op << (W+1)) | (lv << W) | ts`. -/
def commandWord {w : Nat} (op : BitVec 2) (lv : BitVec 1) (ts : BitVec w) : CmdWord w :=
  op.setWidth (w + 3) <<< (w + 1) ||| lv.setWidth (w + 3) <<< w ||| ts.setWidth (w + 3)

/-- R71: `(t + w) mod 2^W`, the time a pulse ends. -/
def pulseEnd (p : Config.Params) (t w : Nat) : Nat := (t + w) % 2 ^ p.W

/-- R71: `PULSE t, w` is `EDGE PULSE_LEVEL, t` and then `EDGE (1 - PULSE_LEVEL), (t + w) mod 2^W`. -/
def pulseEdges (p : Config.Params) (t w : Nat) : List Instr :=
  [.edge p.pulseLevel t, .edge (1 - p.pulseLevel) (pulseEnd p t w)]

/-- R71: the width of `BIT0`'s pulse, ms. -/
def bit0Width : Nat := 100

/-- R71: the width of `BIT1`'s pulse, ms. -/
def bit1Width : Nat := 200

/-- The host commands an instruction stands for: itself, the expansion of a pseudo-instruction (R71), or none for an
internal operation, which no command invokes directly (spec/41_telegram_buffer.md). -/
def expansion (p : Config.Params) : Instr → List Instr
  | .nop => [.nop]
  | .edge lv ts => [.edge lv ts]
  | .init => [.init]
  | .snap => [.snap]
  | .classify _ _ _ => []
  | .append _ => []
  | .retreat => []
  | .normalize _ _ => []
  | .reset => []
  | .finalize _ => []
  | .bcd _ _ => []
  | .parity _ => []
  | .pulse t w => pulseEdges p t w
  | .bit0 t => pulseEdges p t bit0Width
  | .bit1 t => pulseEdges p t bit1Width

/-- The word of one host command, the ignored fields written as 0 (R61, R62). -/
def hostWord (w : Nat) : Instr → Option (CmdWord w)
  | .nop => some (commandWord 0b00#2 0 0)
  | .edge lv ts => some (commandWord 0b01#2 lv (BitVec.ofNat w ts))
  | .init => some (commandWord 0b10#2 0 0)
  | .snap => some (commandWord 0b11#2 0 0)
  | .classify _ _ _ => none
  | .append _ => none
  | .retreat => none
  | .normalize _ _ => none
  | .reset => none
  | .finalize _ => none
  | .bcd _ _ => none
  | .parity _ => none
  | .pulse _ _ => none
  | .bit0 _ => none
  | .bit1 _ => none

/-- The words of an instruction: one for a host command, two for a pseudo-instruction, none for an internal
operation. -/
def encode (p : Config.Params) (i : Instr) : List (CmdWord p.W) :=
  (expansion p i).filterMap (hostWord p.W)

/-- The words of a program, as the numbers the host lines up. -/
def programWords (p : Config.Params) (is : List Instr) : List Nat :=
  (is.flatMap (encode p)).map BitVec.toNat

/-! ## The opcode table (R61) -/

/-- A row of the opcode table with an encoding, at `W = 32`: a word is the row's command when its masked bits equal `bits`. -/
structure OpcodeRow where
  mnemonic : String
  mask : CmdWord 32
  bits : CmdWord 32
deriving DecidableEq, Repr

/-- R61: the (mask, match) pairs on the 35-bit word. -/
def opcodeRows : List OpcodeRow :=
  [⟨"NOP", 0x600000000, 0x000000000⟩, ⟨"EDGE", 0x600000000, 0x200000000⟩,
   ⟨"INIT", 0x600000000, 0x400000000⟩, ⟨"SNAP", 0x600000000, 0x600000000⟩]

/-- The word is an instance of the row. -/
def OpcodeRow.holds (r : OpcodeRow) (c : CmdWord 32) : Bool :=
  c &&& r.mask == r.bits

end Sys2Proof
end

