-- ==== Sys2Proof/Machine/State.lean ====
section
/-! DEFINITION. The state of the CORE (spec/10_state.md), its output ports, and why a step can stop. -/

namespace Sys2Proof.Machine

/-- Why the machine stops with a fault. R172: the model has exactly one fault reason. -/
inductive Fault where
  /-- Raised by EDGE and SNAP before the first INIT (R155). The hardware's behaviour there is unspecified (I1 of
  spec/93_implementation_defined.md). Safe: the model asserts nothing about such a run. -/
  | notInitialised
deriving DecidableEq, Repr

/-- Why the model has no meaning for an instruction. -/
inductive Refusal where
  /-- Raised by an arm of `exec` whose instruction has no meaning yet. No arm raises it in this model. Safe. -/
  | notModelled (mnemonic : String)
deriving DecidableEq, Repr

/-- R23: `IDLE` (no edge seen yet) or `TRACKING`. -/
inductive Phase where
  | idle
  | tracking
deriving DecidableEq, Repr

/-- R66: what a step did. `Status.code` (Flags.lean) gives the 4-bit code on the port. -/
inductive Status where
  | nopDone
  | initDone
  | snapshotRead
  | edgeRecorded
  | bitAppended
  | noiseIgnored
  | bounceCorrected
  | telegramTooShort
  | parityMismatch
  | invalidDateFields
  | bufferOverflow
  | telegramDelivered
deriving DecidableEq, Repr

/-- R67: the classifier's outcome, an internal value. -/
inductive EdgeOutcome where
  | ignore
  | zero
  | one
  | minuteSync
  | bounce
  /-- a pulse-start edge with no effect on the buffer -/
  | none
deriving DecidableEq, Repr

/-- R33: the record's fields, each as wide as its telegram field. -/
structure Record where
  minute : BitVec 7
  hour : BitVec 6
  day : BitVec 6
  month : BitVec 5
  year : BitVec 8
  zone : BitVec 2
deriving DecidableEq, Repr

/-- R36: the record fields of a step that delivers nothing. -/
def Record.zero : Record := ⟨0, 0, 0, 0, 0, 0⟩

/-- The output ports of one step (R33 to R36). `status` is `none` where no command was performed: at power-on, after
a faulted step and in an idle step (log 11). -/
structure Outputs where
  status : Option Status
  recValid : Bool
  record : Record
  snapValid : Bool
  snapData : Buffer
deriving DecidableEq, Repr

/-- R36: every port at its default. -/
def Outputs.defaults : Outputs := ⟨none, false, Record.zero, false, 0⟩

/-- The model's own: the value an internal operation hands to its caller (log 8), or the outputs of the first of a
pseudo-instruction's two steps (log 9). No host command reads it. -/
inductive Returned where
  | nothing
  /-- CLASSIFY's outcome -/
  | outcome (o : EdgeOutcome)
  /-- the status APPEND or FINALIZE returns -/
  | status (c : Status)
  /-- NORMALIZE's left-aligned telegram -/
  | buffer (n : Buffer)
  /-- BCD's integer -/
  | decimal (v : Nat)
  /-- PARITY's three parities, packed as `pf` is -/
  | parities (pf : BitVec 3)
  /-- what the first EDGE of a PULSE, BIT0 or BIT1 drove -/
  | firstStep (out : Outputs)
deriving DecidableEq, Repr

/-- The parameters of the build (R6), the CORE's registers (R20), the model's bookkeeping (R28), the output ports of the
latest step, and the input the host has lined up on `cmd`. -/
structure State where
  /-- the parameters this CORE was built with: not a register, and nothing writes it (R30, log 2) -/
  params : Config.Params
  /-- the telegram buffer (R21) -/
  bits : Buffer
  /-- the buffer's write position (R22) -/
  cursor : Cursor
  /-- Idle or Tracking (R23) -/
  phase : Phase
  /-- the level of the most recent EDGE (R24) -/
  prevLevel : Level
  /-- the timing baseline (R25) -/
  tBase : Nat
  /-- the most recent pulse start (R26) -/
  tPulse : Nat
  /-- the parity flags: bit 2 minute, bit 1 hour, bit 0 date (R27) -/
  pf : BitVec 3
  /-- model bookkeeping: an INIT has been performed (R28) -/
  initialised : Bool
  /-- model bookkeeping: the first model fault, never cleared (R28, R172) -/
  fault : Option Fault
  /-- the command words the host will present, the next one first, as numbers of which the port carries the low `W + 3`
  bits (R32, log 3) -/
  cmds : List Nat
  /-- the output ports of the latest step (R33 to R36) -/
  out : Outputs
  /-- the model's own result field (log 8) -/
  returned : Returned
deriving DecidableEq, Repr

/-- The state after reset of a CORE built with the parameters `p`. Reset is the INIT command (R190), so these are the
values of R39, with the ports as INIT drives them (R152) and no command lined up (log 5). -/
def State.resetOf (p : Config.Params) : State where
  params := p
  bits := 0
  cursor := 0
  phase := .idle
  prevLevel := 0
  tBase := 0
  tPulse := 0
  pf := 0
  initialised := true
  fault := none
  cmds := []
  out := ⟨some .initDone, false, Record.zero, false, 0⟩
  returned := .nothing

/-- The state after reset of the CORE built with the default parameters. -/
def State.reset : State := State.resetOf Config.params

/-- The state at power-on of a CORE built with the parameters `p` (R40): every register is a free value, and no INIT has
been performed (log 7). -/
def State.powerOn (p : Config.Params) : State where
  params := p
  bits := Config.powerOnBits
  cursor := Config.powerOnCursor
  phase := if Config.powerOnTracking then .tracking else .idle
  prevLevel := Config.powerOnPrevLevel
  tBase := Config.powerOnTBase % 2 ^ p.W
  tPulse := Config.powerOnTPulse % 2 ^ p.W
  pf := Config.powerOnPf
  initialised := false
  fault := none
  cmds := []
  out := Outputs.defaults
  returned := .nothing

end Sys2Proof.Machine
end

