-- ==== Sys2Proof/Machine/Operands.lean ====
section
/-! DEFINITION. The values an operation computes its effect from: elapsed times (R10), the fields of a normalized
telegram (R64, R125), and the BCD transform (R123). -/

namespace Sys2Proof.Machine

/-- R10: `delta(a, b) = (a - b) mod 2^W`, the wrap-safe elapsed time, for timestamps of `w` bits. -/
def delta (w : Nat) (a b : Nat) : Nat := (((a : Int) - b) % 2 ^ w).toNat

/-- R80: the kind of an edge, from the previous level alone. -/
def edgeKind (p : Config.Params) (prevLevel : Level) : EdgeKind :=
  if prevLevel = p.pulseLevel then .pulseEnd else .pulseStart

/-! ## The telegram layout (R64), by shifting and masking (R125) -/

/-- R125: `field = (n >> offset) mod 2^width`. -/
def telegramField (n : Buffer) (offset width : Nat) : BitVec width := (n >>> offset).setWidth width

/-- zone-offset, a raw code -/
def zoneField (n : Buffer) : BitVec 2 := telegramField n 17 2
/-- minute, BCD -/
def minuteField (n : Buffer) : BitVec 7 := telegramField n 21 7
/-- parity-minute -/
def minuteParityBit (n : Buffer) : Bool := n.getLsbD 28
/-- hour, BCD -/
def hourField (n : Buffer) : BitVec 6 := telegramField n 29 6
/-- parity-hour -/
def hourParityBit (n : Buffer) : Bool := n.getLsbD 35
/-- day, BCD -/
def dayField (n : Buffer) : BitVec 6 := telegramField n 36 6
/-- weekday, BCD; decoded, not output (R132) -/
def weekdayField (n : Buffer) : BitVec 3 := telegramField n 42 3
/-- month, BCD -/
def monthField (n : Buffer) : BitVec 5 := telegramField n 45 5
/-- civil-year, BCD -/
def yearField (n : Buffer) : BitVec 8 := telegramField n 50 8
/-- parity-date -/
def dateParityBit (n : Buffer) : Bool := n.getLsbD 58

/-! ## The BCD unpacker -/

/-- R123: `bcd(r) = r - (r / 16) * 6`, as wide as the raw field. -/
def bcd {w : Nat} (r : BitVec w) : BitVec w := BitVec.ofNat w (r.toNat - r.toNat / 16 * 6)

/-- R120: every field of a normalized telegram, decoded. The weekday is decoded and then dropped (R132). -/
structure Decoded where
  record : Record
  weekday : BitVec 3
deriving DecidableEq, Repr

/-- R120, R133: the BCD fields converted, the zone raw. -/
def unpack (n : Buffer) : Decoded where
  record :=
    { minute := bcd (minuteField n)
      hour := bcd (hourField n)
      day := bcd (dayField n)
      month := bcd (monthField n)
      year := bcd (yearField n)
      zone := zoneField n }
  weekday := bcd (weekdayField n)

end Sys2Proof.Machine
end

