-- ==== Sys2Proof/Machine/Flags.lean ====
section
/-! DEFINITION. The parity trees and the `pf` register (spec/43_parity.md), and the numbers of the output and
internal codes (R66, R67). The CORE has no other flags (R37). -/

namespace Sys2Proof.Machine

/-- `xor` over the `count` bits of `n` from position `lo` up: 1 if an odd number of them are 1 (R8). -/
def xorBits (n : Buffer) (lo : Nat) : Nat → Bool
  | 0 => false
  | count + 1 => xorBits n lo count ^^ n.getLsbD (lo + count)

/-- The three parities of a telegram. -/
structure Parities where
  minute : Bool
  hour : Bool
  date : Bool
deriving DecidableEq, Repr

/-- R140: the three XOR trees, over minute, hour, and day to year (R141 to R143). -/
def parity (n : Buffer) : Parities where
  minute := xorBits n 21 7
  hour := xorBits n 29 6
  date := xorBits n 36 22

/-- R145: `pf[2] = pm`, `pf[1] = ph` and `pf[0] = pd`. -/
def Parities.flags (q : Parities) : BitVec 3 :=
  BitVec.ofBool q.minute ++ BitVec.ofBool q.hour ++ BitVec.ofBool q.date

/-- R126: all three computed parities equal the stored bits. -/
def parityMatches (n : Buffer) : Bool :=
  (parity n).minute == minuteParityBit n && (parity n).hour == hourParityBit n && (parity n).date == dateParityBit n

/-! ## R140's single pass, the source's own form of the trees -/

/-- The pass's accumulator and what it has captured. -/
structure ParityScan where
  acc : Bool
  found : Parities
deriving DecidableEq, Repr

/-- R140: one position of the pass: reset on entering a segment, capture before the parity bit is folded in, fold. -/
def ParityScan.visit (n : Buffer) (q : ParityScan) (i : Nat) : ParityScan :=
  let acc := if i = 29 ∨ i = 36 then false else q.acc
  { acc := acc ^^ n.getLsbD i
    found :=
      { minute := if i = 28 then acc else q.found.minute
        hour := if i = 35 then acc else q.found.hour
        date := if i = 58 then acc else q.found.date } }

/-- R140: the pass over positions 21 to 59. -/
def parityPass (n : Buffer) : Parities :=
  ((List.range' 21 39).foldl (ParityScan.visit n) ⟨false, ⟨false, false, false⟩⟩).found

/-! ## Code numbers -/

/-- R66: the code on the 4-bit `status` port. Codes 12 to 15 are never produced. -/
def Status.code : Status → BitVec 4
  | .nopDone => 0
  | .initDone => 1
  | .snapshotRead => 2
  | .edgeRecorded => 3
  | .bitAppended => 4
  | .noiseIgnored => 5
  | .bounceCorrected => 6
  | .telegramTooShort => 7
  | .parityMismatch => 8
  | .invalidDateFields => 9
  | .bufferOverflow => 10
  | .telegramDelivered => 11

/-- R67: the spec's encoding of the classifier's outcome. -/
def EdgeOutcome.code : EdgeOutcome → Nat
  | .ignore => 0
  | .zero => 1
  | .one => 2
  | .minuteSync => 3
  | .bounce => 4
  | .none => 5

/-- R20: the `phase` register's bit. -/
def Phase.code : Phase → BitVec 1
  | .idle => 0
  | .tracking => 1

/-- A finalize ended with this code (R120's five returns). -/
def Status.isFinalize : Status → Bool
  | .telegramTooShort => true
  | .parityMismatch => true
  | .invalidDateFields => true
  | .bufferOverflow => true
  | .telegramDelivered => true
  | .nopDone => false
  | .initDone => false
  | .snapshotRead => false
  | .edgeRecorded => false
  | .bitAppended => false
  | .noiseIgnored => false
  | .bounceCorrected => false

end Sys2Proof.Machine
end

