-- ==== Sys2Proof/Machine/Ops.lean ====
section
/-! DEFINITION. The named operations over the registers and the output ports: what a step drives (R33 to R36), the
telegram buffer (spec/41_telegram_buffer.md), finalize (spec/42_finalize_bcd.md) and the model fault (R155, R172).
The CORE has no memory (R50) and takes no exception (R170). -/

namespace Sys2Proof.Machine

/-! ## Ports and the model's own field -/

/-- R36, R156: a step begins with every port at its default. -/
def State.beginStep (s : State) : State := { s with out := Outputs.defaults, returned := .nothing }

/-- R34: the step's `status`. -/
def State.driveStatus (s : State) (c : Status) : State := { s with out := { s.out with status := some c } }

/-- R33, R128: the record ports of a delivering step. -/
def State.deliver (s : State) (r : Record) : State := { s with out := { s.out with recValid := true, record := r } }

/-- R35, R53: the snapshot ports of a SNAP step. -/
def State.showSnapshot (s : State) : State := { s with out := { s.out with snapValid := true, snapData := s.bits } }

/-- The value an internal operation hands to its caller (log 8). -/
def State.reply (s : State) (r : Returned) : State := { s with returned := r }

/-! ## The model fault -/

/-- R155: a command that needs an INIT before it raises the fault when there has been none, and writes nothing. -/
def whenInitialised (s : State) (run : State → State) : Host.Outcome State Fault Refusal :=
  if s.initialised then .next (run s) else .fault .notInitialised

/-- R28, R172: the model records the first fault for good; the faulted step writes no register and drives no output
but the defaults. -/
def State.recordFault (s : State) (r : Fault) : State :=
  { s.beginStep with fault := some (s.fault.getD r) }

/-- The second of two steps, run from the state the first one left (log 9). -/
def andThen (first : Host.Outcome State Fault Refusal) (second : State → Host.Outcome State Fault Refusal) :
    Host.Outcome State Fault Refusal :=
  match first with
  | .next t => second t
  | .fault r => .fault r
  | .refused r => .refused r

/-! ## The telegram buffer -/

/-- R106: `bits <- 0; cursor <- 0`. -/
def State.bufferReset (s : State) : State := { s with bits := 0, cursor := 0 }

/-- R102: the cursor goes down by one, with 0 as the floor; `bits` is not written. -/
def State.retreat (s : State) : State := { s with cursor := if s.cursor = 0 then 0 else s.cursor - 1 }

/-- R100: `if b = 1: bits[cursor] <- 1`; a 0 leaves the position as it is. -/
def setBit (bits : Buffer) (cursor : Cursor) (b : Bool) : Buffer :=
  if b then bits ||| BitVec.twoPow 60 cursor.toNat else bits

/-- R104: the shift that brings the last written bit to `NORM_LAST`. -/
def normalizeShift (p : Config.Params) (cursor : Cursor) : Nat :=
  if cursor.toNat ≤ p.normLast + 1 then p.normLast + 1 - cursor.toNat else 0

/-- R104: `(bits << s) mod 2^60`. -/
def normalize (p : Config.Params) (bits : Buffer) (cursor : Cursor) : Buffer := bits <<< normalizeShift p cursor

/-! ## Finalize -/

/-- R127: the decoded month and year are both non-zero. -/
def dateOk (r : Record) : Bool := r.month != 0 && r.year != 0

/-- R126 to R128: what the checks say of a normalized telegram, parity before date (R130). -/
def verdict (n : Buffer) : Status :=
  if !parityMatches n then .parityMismatch
  else if !dateOk (unpack n).record then .invalidDateFields
  else .telegramDelivered

/-- R120's decode path, on a telegram that is long enough: `pf` is written (R145), the buffer is reset (R129), and the
record is delivered if every check passes (R128). -/
def State.decodeTelegram (s : State) (n : Buffer) : State :=
  let t := State.bufferReset { s with pf := (parity n).flags }
  if verdict n = .telegramDelivered then t.deliver (unpack n).record else t

/-- R120: end the current telegram, and the status returned. -/
def finalize (reason : FinalizeReason) (s : State) : State × Status :=
  match reason with
  | .overflow => (s.bufferReset, .bufferOverflow)
  | .sync =>
    if s.cursor.toNat ≤ s.params.minCursor then (s.bufferReset, .telegramTooShort)
    else (s.decodeTelegram (normalize s.params s.bits s.cursor), verdict (normalize s.params s.bits s.cursor))

/-- R100, R101: write one classified bit, or finalize a full buffer without it, and the status returned. -/
def append (b : Bool) (s : State) : State × Status :=
  if Config.capacity ≤ s.cursor.toNat then finalize .overflow s
  else ({ s with bits := setBit s.bits s.cursor b, cursor := s.cursor + 1 }, .bitAppended)

end Sys2Proof.Machine
end

