-- ==== Sys2Proof/Machine/Buffer.lean ====
section
/-! DEFINITION. The buffer operations as rows of the opcode table (spec/41_telegram_buffer.md): APPEND, RETREAT,
NORMALIZE and RESET. They are internal, so none begins a step or drives a port of its own (log 8). -/

namespace Sys2Proof.Machine

/-- APPEND (R100, R101). -/
def execAppend (b : Bool) (s : State) : Host.Outcome State Fault Refusal :=
  .next ((append b s).1.reply (.status (append b s).2))

/-- RETREAT (R102). -/
def execRetreat (s : State) : Host.Outcome State Fault Refusal :=
  .next (s.retreat.reply .nothing)

/-- NORMALIZE (R104): no register is written. -/
def execNormalize (bits : Buffer) (cursor : Cursor) (s : State) : Host.Outcome State Fault Refusal :=
  .next (s.reply (.buffer (normalize s.params bits cursor)))

/-- RESET, the operation `buffer_reset()` (R106). -/
def execReset (s : State) : Host.Outcome State Fault Refusal :=
  .next (s.bufferReset.reply .nothing)

end Sys2Proof.Machine
end

