-- ==== Sys2Proof/Machine/Classifier.lean ====
section
/-! DEFINITION. The edge-timing classifier (R82 of spec/40_edge_classifier.md), the CLASSIFY row. -/

namespace Sys2Proof.Machine

/-- R82: the outcome of an edge from its kind and timing, reading no register. -/
def classify (p : Config.Params) (kind : EdgeKind) (elapsed plen : Nat) : EdgeOutcome :=
  match kind with
  | .pulseStart =>
    if p.tSync < elapsed then .minuteSync
    else if elapsed < p.tBounce then .bounce
    else .none
  | .pulseEnd =>
    if p.tWinLo ≤ elapsed ∧ elapsed < p.tWinHi then
      if p.tSplit ≤ plen then .one else .zero
    else .ignore

/-- R92: the literal order of the source's §4.3, where step 4 opens with "If" and so also looks at a pulse-start edge
that neither step 2 nor step 3 has taken. It stands here to be compared with `classify`; nothing runs it. -/
def classifyLiteral (p : Config.Params) (kind : EdgeKind) (elapsed plen : Nat) : EdgeOutcome :=
  if kind = .pulseStart ∧ p.tSync < elapsed then .minuteSync
  else if kind = .pulseStart ∧ elapsed < p.tBounce then .bounce
  else if p.tWinLo ≤ elapsed ∧ elapsed < p.tWinHi then
    if p.tSplit ≤ plen then .one else .zero
  else if kind = .pulseEnd then .ignore
  else .none

/-- CLASSIFY (R82): no register is written; the outcome is handed to the caller. -/
def execClassify (kind : EdgeKind) (elapsed plen : Nat) (s : State) : Host.Outcome State Fault Refusal :=
  .next (s.reply (.outcome (classify s.params kind elapsed plen)))

end Sys2Proof.Machine
end

