-- ==== Sys2Proof/Machine/Commands.lean ====
section
/-! DEFINITION. The host commands NOP, INIT and SNAP (R152 to R154 of spec/44_host_commands.md). -/

namespace Sys2Proof.Machine

/-- NOP (R153): no register is written; allowed before INIT. -/
def execNop (s : State) : Host.Outcome State Fault Refusal :=
  .next (s.beginStep.driveStatus .nopDone)

/-- R152, R39: every register at its value after INIT. -/
def State.initialise (s : State) : State :=
  { s.bufferReset with phase := .idle, prevLevel := 0, tBase := 0, tPulse := 0, pf := 0, initialised := true }

/-- INIT (R152): the same effect in any state; a recorded model fault stays. -/
def execInit (s : State) : Host.Outcome State Fault Refusal :=
  .next (s.beginStep.initialise.driveStatus .initDone)

/-- SNAP (R154): the raw buffer on the snapshot ports; no register is written. -/
def execSnap (s : State) : Host.Outcome State Fault Refusal :=
  whenInitialised s fun s => s.beginStep.showSnapshot.driveStatus .snapshotRead

end Sys2Proof.Machine
end

