-- ==== Sys2Proof/Machine/Edge.lean ====
section
/-! DEFINITION. The EDGE command (R83 to R93 of spec/40_edge_classifier.md). -/

namespace Sys2Proof.Machine

/-- R84 to R86, R89, R90: what each outcome does to the buffer, and the step's status. -/
def applyOutcome (o : EdgeOutcome) (s : State) : State × Status :=
  match o with
  | .minuteSync => finalize .sync s
  | .bounce => (s.retreat, .bounceCorrected)
  | .none => (s, .edgeRecorded)
  | .one => append true s
  | .zero => append false s
  | .ignore => (s, .noiseIgnored)

/-- R83: the first edge after INIT seeds the timing state and classifies nothing. -/
def firstEdge (lv : Level) (ts : Nat) (s : State) : State :=
  State.driveStatus { s with tBase := ts, tPulse := ts, prevLevel := lv, phase := .tracking } .edgeRecorded

/-- R87, R88, R91: the timing state after an edge of kind `kind`, `elapsed` after the baseline. -/
def State.moveTiming (s : State) (p : Config.Params) (kind : EdgeKind) (elapsed : Nat) (lv : Level) (ts : Nat) : State :=
  { s with
    tPulse := if kind = .pulseStart then ts else s.tPulse
    tBase := if p.tDebounce < elapsed then ts else s.tBase
    prevLevel := lv }

/-- R81: `elapsed`, the time since the qualifying edge. -/
def State.elapsed (s : State) (ts : Nat) : Nat := delta s.params.W ts s.tBase

/-- R81: `plen`, the time since the most recent pulse start. -/
def State.plen (s : State) (ts : Nat) : Nat := delta s.params.W ts s.tPulse

/-- R80: the kind of the next edge. -/
def State.nextKind (s : State) : EdgeKind := edgeKind s.params s.prevLevel

/-- R93: what an edge at `ts` is classified as in `TRACKING`. -/
def State.outcomeAt (s : State) (ts : Nat) : EdgeOutcome := classify s.params s.nextKind (s.elapsed ts) (s.plen ts)

/-- R93: an edge in `TRACKING`. The elapsed times and the kind are start-of-step values (R81). -/
def trackingEdge (lv : Level) (ts : Nat) (s : State) : State :=
  let done := applyOutcome (s.outcomeAt ts) s
  (done.1.driveStatus done.2).moveTiming s.params s.nextKind (s.elapsed ts) lv ts

/-- R93: EDGE after the check that an INIT came first. -/
def edgeStep (lv : Level) (ts : Nat) (s : State) : State :=
  if s.phase = .idle then firstEdge lv ts s.beginStep else trackingEdge lv ts s.beginStep

/-- EDGE lv, ts (R93). -/
def execEdge (lv : Level) (ts : Nat) (s : State) : Host.Outcome State Fault Refusal :=
  whenInitialised s (edgeStep lv ts)

end Sys2Proof.Machine
end

