-- ==== Sys2Proof/Machine/Pseudo.lean ====
section
/-! DEFINITION. The pseudo-instructions PULSE, BIT0 and BIT1 (R71 of spec/30_encoding.md). The CORE never sees one: the
meaning is its expansion's two EDGE steps, one after the other (log 9). -/

namespace Sys2Proof.Machine

/-- R71: `EDGE PULSE_LEVEL, t`, then `EDGE (1 - PULSE_LEVEL), (t + w) mod 2^W`. The first step's outputs, which the
second step's replace on the ports, stand in the model's result field. -/
def pulse (t w : Nat) (s : State) : Host.Outcome State Fault Refusal :=
  andThen (execEdge s.params.pulseLevel t s) fun s₁ =>
    andThen (execEdge (1 - s.params.pulseLevel) (pulseEnd s.params t w) s₁) fun s₂ => .next (s₂.reply (.firstStep s₁.out))

/-- PULSE t, w (R71). -/
def execPulse (t w : Nat) (s : State) : Host.Outcome State Fault Refusal :=
  pulse t w s

/-- BIT0 t (R71): a pulse of 100 ms. -/
def execBit0 (t : Nat) (s : State) : Host.Outcome State Fault Refusal :=
  pulse t bit0Width s

/-- BIT1 t (R71): a pulse of 200 ms. -/
def execBit1 (t : Nat) (s : State) : Host.Outcome State Fault Refusal :=
  pulse t bit1Width s

end Sys2Proof.Machine
end

