-- ==== Sys2Proof/Machine/Telegram.lean ====
section
/-! DEFINITION. The decoding operations as rows of the opcode table: FINALIZE and BCD (spec/42_finalize_bcd.md) and
PARITY (spec/43_parity.md). They are internal (log 8); FINALIZE drives the record ports when it delivers. -/

namespace Sys2Proof.Machine

/-- FINALIZE (R120). -/
def execFinalize (reason : FinalizeReason) (s : State) : Host.Outcome State Fault Refusal :=
  .next ((finalize reason s).1.reply (.status (finalize reason s).2))

/-- BCD (R123): no register is written. -/
def execBcd (width : Nat) (raw : BitVec width) (s : State) : Host.Outcome State Fault Refusal :=
  .next (s.reply (.decimal (bcd raw).toNat))

/-- PARITY (R140): it writes no register; finalize stores the result in `pf` (R145). -/
def execParity (n : Buffer) (s : State) : Host.Outcome State Fault Refusal :=
  .next (s.reply (.parities (parity n).flags))

end Sys2Proof.Machine
end

