-- ==== Sys2Proof/Machine/Dispatch.lean ====
section
/-! DEFINITION. The meaning of every row of spec/opcode_table.json, one arm for each constructor of `Instr`. -/

namespace Sys2Proof.Machine

def exec (i : Instr) (s : State) : Host.Outcome State Fault Refusal :=
  match i with
  -- the host commands (R150)
  | .nop => Sys2Proof.Machine.execNop s
  | .edge lv ts => Sys2Proof.Machine.execEdge lv ts s
  | .init => Sys2Proof.Machine.execInit s
  | .snap => Sys2Proof.Machine.execSnap s
  -- the internal operations
  | .classify kind elapsed plen => Sys2Proof.Machine.execClassify kind elapsed plen s
  | .append b => Sys2Proof.Machine.execAppend b s
  | .retreat => Sys2Proof.Machine.execRetreat s
  | .normalize bits cursor => Sys2Proof.Machine.execNormalize bits cursor s
  | .reset => Sys2Proof.Machine.execReset s
  | .finalize reason => Sys2Proof.Machine.execFinalize reason s
  | .bcd width raw => Sys2Proof.Machine.execBcd width raw s
  | .parity n => Sys2Proof.Machine.execParity n s
  -- the pseudo-instructions (R71)
  | .pulse t w => Sys2Proof.Machine.execPulse t w s
  | .bit0 t => Sys2Proof.Machine.execBit0 t s
  | .bit1 t => Sys2Proof.Machine.execBit1 t s

end Sys2Proof.Machine
end

