-- ==== Sys2Proof/Machine/Step.lean ====
section
/-! DEFINITION. One step of the machine: the next command word on `cmd` is decoded and performed (R150, R156). -/

namespace Sys2Proof.Machine

/-- R150, R156: perform the next command the host presents, each seeing the state all earlier ones left (R57). With no
command presented the CORE does nothing and its registers are kept (R181), and no port holds a value from an earlier
step (R36) (log 4). -/
def step (s : State) : Host.Outcome State Fault Refusal :=
  match s.cmds with
  | [] => .next s.beginStep
  | c :: rest => exec (decode (portWord s.params.W c)) { s with cmds := rest }

/-- The model carried on past a fault (R172): the command is taken, the fault is recorded if it is the first, and
later commands run with the record standing (log 10). -/
def advance (s : State) : State :=
  match step s with
  | .next t => t
  | .fault r => State.recordFault { s with cmds := s.cmds.tail } r
  | .refused _ => s

/-- The host presents the word as its next command (log 3). -/
def State.withFetchWord (s : State) (_nbits w : Nat) : State :=
  { s with cmds := w :: s.cmds }

end Sys2Proof.Machine
end

