-- ==== Sys2Proof/Safety.lean ====
section
/-! DEFINITION. The terms claims are made in: the premise that no fault is recorded, which commands may run, the
invariant of R31, the observation of a run (R156), and the shorthands of the statements about the buffer, the timing
and the parity. -/

namespace Sys2Proof.Machine

/-- R172: the premise of every claim about a run. -/
def NoFaultRecorded (s : State) : Prop := s.fault = none

/-- R155, R176: the one restriction on a command. NOP and INIT are always allowed; EDGE, SNAP and what expands to EDGE
need an INIT before them; an internal operation has no check of its own. -/
def mayRun (i : Instr) (s : State) : Bool :=
  match i with
  | .nop => true
  | .edge _ _ => s.initialised
  | .init => true
  | .snap => s.initialised
  | .classify _ _ _ => true
  | .append _ => true
  | .retreat => true
  | .normalize _ _ => true
  | .reset => true
  | .finalize _ => true
  | .bcd _ _ => true
  | .parity _ => true
  | .pulse _ _ => s.initialised
  | .bit0 _ => s.initialised
  | .bit1 _ => s.initialised

/-- R31: what holds after every step once INIT has been performed; and that the timestamps fit their registers (R20). -/
structure Inv (s : State) : Prop where
  cursor_le : s.initialised = true → s.cursor.toNat ≤ 60
  idle_empty : s.initialised = true → s.phase = .idle → s.bits = 0 ∧ s.cursor = 0
  finalize_empty : ∀ c, s.out.status = some c → c.isFinalize = true → s.bits = 0 ∧ s.cursor = 0
  /-- R25, R26: both timestamps are `W` bits -/
  times_fit : s.tBase < 2 ^ s.params.W ∧ s.tPulse < 2 ^ s.params.W

/-- R156: perform the commands in order and observe each step's outputs and the final state, or why the run stopped. -/
def observe : List Nat → State → Host.Outcome (List Outputs × State) Fault Refusal
  | [], s => .next ([], s)
  | c :: rest, s =>
    match exec (decode (portWord s.params.W c)) s with
    | .next t =>
      match observe rest t with
      | .next (outs, u) => .next (t.out :: outs, u)
      | .fault r => .fault r
      | .refused r => .refused r
    | .fault r => .fault r
    | .refused r => .refused r

/-- R36: the ports of a step that drives its `status` alone. -/
def Outputs.only (c : Status) : Outputs := { Outputs.defaults with status := some c }

/-- R80: an INIT has been performed, and the next edge is a pulse-start edge. -/
def AwaitsPulseStart (s : State) : Prop :=
  s.initialised = true ∧ s.phase = .tracking ∧ s.prevLevel ≠ s.params.pulseLevel

/-- R80: an INIT has been performed, and the next edge is a pulse-end edge. -/
def AwaitsPulseEnd (s : State) : Prop :=
  s.initialised = true ∧ s.phase = .tracking ∧ s.prevLevel = s.params.pulseLevel

/-- `d` after `t`, mod `2^W`. -/
def laterBy (p : Config.Params) (d t : Nat) : Nat := (t + d) % 2 ^ p.W

/-- The state with both timestamps `d` later. -/
def State.shiftTime (d : Nat) (s : State) : State :=
  { s with tBase := laterBy s.params d s.tBase, tPulse := laterBy s.params d s.tPulse }

/-- R51: bits appended one after another. -/
def appendAll : List Bool → State → Host.Outcome State Fault Refusal
  | [], s => .next s
  | b :: bs, s => andThen (exec (.append b) s) (appendAll bs)

/-- How many of the `count` bits of `n` from position `lo` up are 1 (R144). -/
def onesFrom (n : Buffer) (lo : Nat) : Nat → Nat
  | 0 => 0
  | count + 1 => onesFrom n lo count + (n.getLsbD (lo + count)).toNat

/-- The telegram with bit `i` flipped (R146). -/
def flipBit (n : Buffer) (i : Nat) : Buffer := n ^^^ BitVec.twoPow 60 i

/-- The bits of a buffer from position `k` on, `count` of them, as pulses a second apart from `1000 * k` ms (programs
P1 and P4 of spec/95_test_vectors.md): `BIT1` for a 1, `BIT0` for a 0. -/
def pulsesFrom (n : Buffer) : Nat → Nat → List Instr
  | _, 0 => []
  | k, count + 1 =>
    (if n.getLsbD k then .bit1 (1000 * k) else .bit0 (1000 * k)) :: pulsesFrom n (k + 1) count

/-- INIT, the 60 pulses of a telegram, and the minute-sync edge 2000 ms after the last pulse began (program P1). -/
def minuteOf (p : Config.Params) (n : Buffer) : List Instr :=
  .init :: pulsesFrom n 0 60 ++ [.edge p.pulseLevel 61000]

/-- The thresholds take a pulse of 100 ms every second as a 0, one of 200 ms as a 1, and a gap of two seconds as the minute
sync, and a timestamp holds a minute; the defaults do. -/
def SecondPulses (p : Config.Params) : Prop :=
  16 ≤ p.W ∧ p.tWinLo ≤ 100 ∧ 100 < p.tSplit ∧ p.tSplit ≤ 200 ∧ 200 < p.tWinHi ∧ 200 ≤ p.tDebounce ∧
    p.tDebounce < 1000 ∧ p.tBounce ≤ 1000 ∧ 1000 ≤ p.tSync ∧ p.tSync < 2000

end Sys2Proof.Machine
end

