-- ==== Sys2Proof/Certificates/Slice0/Obligations.lean ====
section
/-! DEFINITION. The statements about the model, from the numbered rules of spec/. -/

open Sys2Proof Sys2Proof.Machine

/-! ## Encodings (spec/30_encoding.md) -/

/-- R60, for every timestamp width: the assembled word holds `op` at `[W+2:W+1]`, `lv` at `[W]` and `ts` at
`[W-1:0]`, and the decoder's fields read them there. -/
def Obligations.CommandFieldsSitWhereTheFormatSays : Prop :=
  ∀ (w : Nat) (op : BitVec 2) (lv : BitVec 1) (ts : BitVec w) (c : CmdWord w),
    (c = commandWord op lv ts ↔
      (∀ i, i < 2 → c.getLsbD (w + 1 + i) = op.getLsbD i) ∧ c.getLsbD w = lv.getLsbD 0 ∧
        (∀ i, i < w → c.getLsbD i = ts.getLsbD i)) ∧
    (c = commandWord op lv ts ↔ opField c = op ∧ lvField c = lv ∧ tsField c = ts)

/-- For every build, decoding the words of any well-formed instruction gives the host commands it stands for: a host
command's one word decodes to that command with every operand, a pseudo-instruction's two to its two EDGE commands, and an
internal operation has none. -/
def Obligations.DecodeOfEncodeIsTheCommand : Prop :=
  ∀ (p : Config.Params) (i : Instr), i.wellFormed p = true →
    (encode p i).map decode = expansion p i ∧ (i.family = .host → ∃ c, encode p i = [c] ∧ decode c = i)

/-- R62: a word decodes to a well-formed instruction, and encoding it gives back every bit that is not ignored, and 0 for
the ignored ones. -/
def Obligations.EncodeOfDecodeKeepsEveryReadBit : Prop :=
  ∀ (p : Config.Params) (c : CmdWord p.W), (decode c).wellFormed p = true ∧
    ∃ d, encode p (decode c) = [d] ∧ opField d = opField c ∧
      (opField c = 0b01#2 → d = c) ∧ (opField c ≠ 0b01#2 → lvField d = 0 ∧ tsField d = 0)

/-- R61: at W = 32 the four (mask, match) pairs are complete and exclusive and the decoder answers the row that holds; at
every W each `op` value is its command. -/
def Obligations.EveryWordIsExactlyOneTableRow : Prop :=
  (∀ c : CmdWord 32, ∃ r ∈ opcodeRows, r.holds c = true ∧ (decode c).mnemonic = r.mnemonic ∧
    ∀ q ∈ opcodeRows, q.holds c = true → q = r) ∧
  ∀ (w : Nat) (c : CmdWord w),
    (opField c = 0b00#2 → decode c = .nop) ∧ (opField c = 0b01#2 → ∃ lv ts, decode c = .edge lv ts) ∧
      (opField c = 0b10#2 → decode c = .init) ∧ (opField c = 0b11#2 → decode c = .snap)

/-- R62: NOP, INIT and SNAP behave the same whatever their `lv` and `ts` bits, which the encoder writes as 0; EDGE takes
its operands as they stand in the word. -/
def Obligations.IgnoredBitsChangeNothing : Prop :=
  (∀ (w : Nat) (c d : CmdWord w) (s : State), opField c = opField d → opField c ≠ 0b01#2 →
    exec (decode c) s = exec (decode d) s) ∧
  (∀ (w : Nat) (c : CmdWord w), opField c = 0b01#2 → decode c = .edge (lvField c) (tsField c).toNat) ∧
  ∀ (p : Config.Params) (i : Instr) (c : CmdWord p.W), i = .nop ∨ i = .init ∨ i = .snap → c ∈ encode p i →
    lvField c = 0 ∧ tsField c = 0

/-- Words that R70 writes out for W = 32 decode to the commands it names, and assemble from them. -/
def Obligations.WrittenWordsDecode : Prop :=
  decode (0x000000000 : CmdWord 32) = .nop ∧ decode (0x3000003E8 : CmdWord 32) = .edge 1 1000 ∧
    decode (0x20000044C : CmdWord 32) = .edge 0 1100 ∧ decode (0x400000000 : CmdWord 32) = .init ∧
    decode (0x600000000 : CmdWord 32) = .snap ∧ encode Config.params (.edge 1 1000) = [0x3000003E8] ∧
    encode Config.params .init = [0x400000000] ∧ encode Config.params .snap = [0x600000000]

/-- R71: PULSE's two words decode to its two edges, and BIT0 and BIT1 are PULSE of 100 and 200 ms. -/
def Obligations.PseudoInstructionsExpandToTwoEdges : Prop :=
  ∀ (p : Config.Params) (t w : Nat), t < 2 ^ p.W →
    (encode p (.pulse t w)).map decode =
        [.edge p.pulseLevel t, .edge (1 - p.pulseLevel) ((t + w) % 2 ^ p.W)] ∧
      encode p (.bit0 t) = encode p (.pulse t 100) ∧ encode p (.bit1 t) = encode p (.pulse t 200)

/-! ## The step (spec/44_host_commands.md, spec/20_memory.md) -/

/-- The step performs the instruction the next command word decodes to, the word taken from the host's queue (the
queue is the model's choice, log 3). With no command presented the registers are kept and the ports are at their
defaults (the model's choice, log 4). -/
def Obligations.StepRunsTheDecodedCommand : Prop :=
  (∀ (s : State) (c : Nat) (rest : List Nat),
    s.cmds = c :: rest → step s = exec (decode (portWord s.params.W c)) { s with cmds := rest }) ∧
  ∀ s : State, s.cmds = [] → step s = .next { s with out := Outputs.defaults, returned := .nothing }

/-- A word the host presents is the one the next step performs; a number wider than the port is no word, and a table word is
read at the default W = 32 (the model's choices, logs 3 and 13). -/
def Obligations.PresentedWordIsPerformed : Prop :=
  ∀ (s : State) (nbits n : Nat),
    (n < 2 ^ (s.params.W + 3) →
      ∃ i, decodeNat s.params.W n = .ok i ∧ step (s.withFetchWord nbits n) = exec i s ∧
        (s.params.W = 32 → decodeTableWord nbits n = some i)) ∧
      (2 ^ (s.params.W + 3) ≤ n → decodeNat s.params.W n = .error .widerThanPort)

/-- An instruction is carried out exactly when no missing INIT stops it, and otherwise raises the one model fault; no
instruction is refused. -/
def Obligations.OnlyAMissingInitStopsAnInstruction : Prop :=
  ∀ (i : Instr) (s : State),
    (mayRun i s = true → ∃ t, exec i s = .next t) ∧ (mayRun i s = false → exec i s = .fault .notInitialised)

/-- Nothing the CORE meets is fatal: from every initialised state, every number of steps over every queue of commands
ends in a next state, still initialised and with the same fault record. -/
def Obligations.RunNeverStopsOnceInitialised : Prop :=
  ∀ (n : Nat) (s : State), s.initialised = true →
    ∃ t, Host.Core.run core n s = .next t ∧ t.initialised = true ∧ t.fault = s.fault

/-- Performing a list of commands one by one, and stepping the machine on them as its queue, end in the same state with
one output for each command (the queue is the model's choice, log 3). -/
def Obligations.ObservedRunIsTheRunOfTheQueue : Prop :=
  ∀ (cs rest : List Nat) (s u : State) (outs : List Outputs),
    observe cs s = .next (outs, u) →
      outs.length = cs.length ∧
        Host.Core.run core cs.length { s with cmds := cs ++ rest } = .next { u with cmds := rest }

/-! ## NOP, INIT, SNAP -/

/-- R153: a word with `op = 00` is NOP, which drives NOP_DONE and writes no register, before INIT too. -/
def Obligations.NopWritesNoRegister : Prop :=
  (∀ (w : Nat) (c : CmdWord w), opField c = 0b00#2 → decode c = .nop) ∧
  ∀ s : State, exec .nop s = .next { s with out := Outputs.only .nopDone, returned := .nothing }

/-- R152: a word with `op = 10` is INIT, which gives every register its value after INIT in any state, keeps a recorded
fault, and drives INIT_DONE. -/
def Obligations.InitGivesTheResetValues : Prop :=
  (∀ (w : Nat) (c : CmdWord w), opField c = 0b10#2 → decode c = .init) ∧
  ∀ s : State,
    exec .init s =
      .next
        { params := s.params, bits := 0, cursor := 0, phase := .idle, prevLevel := 0, tBase := 0, tPulse := 0, pf := 0,
          initialised := true, fault := s.fault, cmds := s.cmds, out := Outputs.only .initDone, returned := .nothing }

/-- R154: a word with `op = 11` is SNAP, which shows the raw buffer and writes no register. -/
def Obligations.SnapShowsTheRawBuffer : Prop :=
  (∀ (w : Nat) (c : CmdWord w), opField c = 0b11#2 → decode c = .snap) ∧
  ∀ s : State,
    (s.initialised = true →
      exec .snap s =
        .next
          { s with
            out := { status := some .snapshotRead, recValid := false, record := Record.zero, snapValid := true,
                     snapData := s.bits }
            returned := .nothing }) ∧
    (s.initialised = false → exec .snap s = .fault .notInitialised)

/-- R155: before the first INIT, EDGE and SNAP raise the fault; the machine carried on past it has written no register,
drives no output but the defaults, and has recorded the fault (how it carries on is the model's choice, log 10). -/
def Obligations.EdgeAndSnapFaultBeforeInit : Prop :=
  ∀ (s : State) (lv : Level) (ts : Nat), s.initialised = false →
    exec (.edge lv ts) s = .fault .notInitialised ∧ exec .snap s = .fault .notInitialised ∧
      ∀ (c : Nat) (rest : List Nat), s.cmds = c :: rest →
        decode (portWord s.params.W c) = .edge lv ts ∨ decode (portWord s.params.W c) = .snap →
        advance s =
          { s with
            cmds := rest
            fault := some (s.fault.getD .notInitialised)
            out := Outputs.defaults
            returned := .nothing }

/-- From power-on of any build, whatever its unspecified registers hold (free values, log 7), INIT gives the reset state,
NOP writes nothing, and EDGE and SNAP fault. -/
def Obligations.PowerOnThenInitIsReset : Prop :=
  ∀ p : Config.Params,
    exec .init (State.powerOn p) = .next (State.resetOf p) ∧
      exec .nop (State.powerOn p) = .next { State.powerOn p with out := Outputs.only .nopDone } ∧
      (∀ lv ts, exec (.edge lv ts) (State.powerOn p) = .fault .notInitialised) ∧
      exec .snap (State.powerOn p) = .fault .notInitialised

/-- R172: once recorded, the fault stays through any number of further steps, INIT among them, and no instruction's next
state changes the record (how a run carries on past a fault is the model's choice, log 10). -/
def Obligations.RecordedFaultIsKeptForGood : Prop :=
  (∀ (i : Instr) (s t : State), exec i s = .next t → t.fault = s.fault) ∧
  ∀ (n : Nat) (s : State) (r : Fault), s.fault = some r → (Nat.iterate advance n s).fault = some r

/-! ## EDGE (spec/40_edge_classifier.md) -/

/-- R83: the first edge after INIT seeds the timing state and touches nothing else. -/
def Obligations.FirstEdgeSeedsTheTiming : Prop :=
  ∀ (lv : Level) (ts : Nat) (s : State), s.initialised = true → s.phase = .idle →
    exec (.edge lv ts) s =
      .next
        { s with
          tBase := ts, tPulse := ts, prevLevel := lv, phase := .tracking, out := Outputs.only .edgeRecorded,
          returned := .nothing }

/-- R84: a pulse-start edge more than T_SYNC after the baseline does what `finalize(SYNC)` does, reports its code, and then
moves both timestamps (the baseline if the gap exceeds T_DEBOUNCE, as it does at the defaults). -/
def Obligations.SyncEdgeFinalizes : Prop :=
  ∀ (lv : Level) (ts : Nat) (s : State), AwaitsPulseStart s → s.params.tSync < s.elapsed ts →
    ∃ (t : State) (c : Status),
      exec (.finalize .sync) { s with out := Outputs.defaults, returned := .nothing } = .next t ∧ t.returned = .status c ∧
        (c = .telegramTooShort ∨ c = .parityMismatch ∨ c = .invalidDateFields ∨ c = .telegramDelivered) ∧
        exec (.edge lv ts) s =
          .next
            { t with
              tBase := if s.params.tDebounce < s.elapsed ts then ts else s.tBase
              tPulse := ts
              prevLevel := lv
              out := { t.out with status := some c }
              returned := .nothing }

/-- R85: a pulse-start edge that is no sync and less than T_BOUNCE after the baseline takes the cursor back by one, not
below 0, and moves the pulse start; it moves the baseline only as R88 says, so never where T_BOUNCE ≤ T_DEBOUNCE, as at the
defaults. -/
def Obligations.BounceEdgeRetreats : Prop :=
  ∀ (lv : Level) (ts : Nat) (s : State), AwaitsPulseStart s → s.elapsed ts ≤ s.params.tSync →
    s.elapsed ts < s.params.tBounce →
    ∃ (c : Cursor) (b : Nat), c.toNat = s.cursor.toNat - 1 ∧
      b = (if s.params.tDebounce < s.elapsed ts then ts else s.tBase) ∧
      (s.params.tBounce ≤ s.params.tDebounce → b = s.tBase) ∧
      exec (.edge lv ts) s =
        .next
          { s with
            cursor := c, tPulse := ts, tBase := b, prevLevel := lv, out := Outputs.only .bounceCorrected,
            returned := .nothing }

/-- R86: a pulse-start edge between T_BOUNCE and T_SYNC leaves the buffer alone. -/
def Obligations.PlainPulseStartIsRecorded : Prop :=
  ∀ (lv : Level) (ts : Nat) (s : State), AwaitsPulseStart s →
    s.params.tBounce ≤ s.elapsed ts → s.elapsed ts ≤ s.params.tSync →
    exec (.edge lv ts) s =
      .next
        { s with
          tPulse := ts
          tBase := if s.params.tDebounce < s.elapsed ts then ts else s.tBase
          prevLevel := lv
          out := Outputs.only .edgeRecorded
          returned := .nothing }

/-- R89: a pulse-end edge in the window appends 1 when the pulse is T_SPLIT or longer and 0 otherwise, each by setting
at most the bit at the cursor; with the buffer full it reports BUFFER_OVERFLOW and leaves the buffer empty. The baseline
moves only as R88 says, so never where T_WIN_HI ≤ T_DEBOUNCE, as at the defaults. -/
def Obligations.PulseEndInTheWindowAppends : Prop :=
  ∀ (lv : Level) (ts : Nat) (s : State), AwaitsPulseEnd s →
    s.params.tWinLo ≤ s.elapsed ts → s.elapsed ts < s.params.tWinHi →
    ∃ m : Nat, m = (if s.params.tDebounce < s.elapsed ts then ts else s.tBase) ∧
      (s.params.tWinHi ≤ s.params.tDebounce → m = s.tBase) ∧
      (s.cursor.toNat < 60 →
        ∃ (b : Buffer) (c : Cursor), c.toNat = s.cursor.toNat + 1 ∧
          (∀ i, i < 60 → b.getLsbD i =
            (s.bits.getLsbD i || (decide (i = s.cursor.toNat) && decide (s.params.tSplit ≤ s.plen ts)))) ∧
          exec (.edge lv ts) s =
            .next
              { s with
                bits := b, cursor := c, tBase := m, prevLevel := lv, out := Outputs.only .bitAppended,
                returned := .nothing }) ∧
      (60 ≤ s.cursor.toNat →
        exec (.edge lv ts) s =
          .next
            { s with
              bits := 0, cursor := 0, tBase := m, prevLevel := lv, out := Outputs.only .bufferOverflow,
              returned := .nothing })

/-- R90: a pulse-end edge outside the window leaves the buffer alone. -/
def Obligations.PulseEndOutsideTheWindowIsIgnored : Prop :=
  ∀ (lv : Level) (ts : Nat) (s : State), AwaitsPulseEnd s →
    s.elapsed ts < s.params.tWinLo ∨ s.params.tWinHi ≤ s.elapsed ts →
    exec (.edge lv ts) s =
      .next
        { s with
          tBase := if s.params.tDebounce < s.elapsed ts then ts else s.tBase
          prevLevel := lv
          out := Outputs.only .noiseIgnored
          returned := .nothing }

/-- R87, R88, R91: the timing state after any edge in `TRACKING`, of either kind and with any outcome, from
start-of-step values; and every edge stores its level. -/
def Obligations.TimingStateAfterEveryEdge : Prop :=
  ∀ (lv : Level) (ts : Nat) (s t : State), exec (.edge lv ts) s = .next t →
    t.prevLevel = lv ∧
      (s.phase = .tracking →
        t.tPulse = (if s.prevLevel ≠ s.params.pulseLevel then ts else s.tPulse) ∧
          t.tBase = (if s.params.tDebounce < s.elapsed ts then ts else s.tBase))

/-- The level an edge brings takes no part in that edge's own processing: it is only stored. -/
def Obligations.NewLevelOnlyDecidesTheNextEdge : Prop :=
  ∀ (lv lv' : Level) (ts : Nat) (s t : State),
    exec (.edge lv ts) s = .next t → exec (.edge lv' ts) s = .next { t with prevLevel := lv' }

/-- EDGE's frame: the bookkeeping and the input are unchanged; `pf` changes only where the step reached the parity check;
the buffer changes only where the step appended, retreated or finalized, and a retreat leaves `bits` alone. -/
def Obligations.EdgeLeavesTheRestUnchanged : Prop :=
  ∀ (lv : Level) (ts : Nat) (s t : State), exec (.edge lv ts) s = .next t →
    t.initialised = s.initialised ∧ t.fault = s.fault ∧ t.cmds = s.cmds ∧ t.phase = .tracking ∧ t.returned = .nothing ∧
      (t.out.status ≠ some .parityMismatch → t.out.status ≠ some .invalidDateFields →
        t.out.status ≠ some .telegramDelivered → t.pf = s.pf) ∧
      (t.out.status = some .edgeRecorded ∨ t.out.status = some .noiseIgnored → t.bits = s.bits ∧ t.cursor = s.cursor) ∧
      (t.out.status = some .bounceCorrected → t.bits = s.bits) ∧
      t.out.snapValid = false

/-- Elapsed time is the difference mod 2^W (R10), and only differences of timestamps matter: moving the edge and both stored
timestamps by the same amount, across the wrap or not, moves the resulting timestamps by it and changes nothing else. -/
def Obligations.OnlyTimeDifferencesMatter : Prop :=
  (∀ w a b : Nat, a < 2 ^ w → b < 2 ^ w → delta w a b = if b ≤ a then a - b else 2 ^ w + a - b) ∧
  ∀ (d : Nat) (lv : Level) (ts : Nat) (s t : State),
    exec (.edge lv ts) s = .next t →
      exec (.edge lv (laterBy s.params d ts)) (s.shiftTime d) = .next (t.shiftTime d)

/-- R82: CLASSIFY writes no register and answers each outcome exactly under its condition. -/
def Obligations.ClassifierAnswersByTiming : Prop :=
  ∀ (k : EdgeKind) (e l : Nat) (s : State), ∃ o : EdgeOutcome,
    exec (.classify k e l) s = .next { s with returned := .outcome o } ∧
      (o = .minuteSync ↔ k = .pulseStart ∧ s.params.tSync < e) ∧
      (o = .bounce ↔ k = .pulseStart ∧ e ≤ s.params.tSync ∧ e < s.params.tBounce) ∧
      (o = .none ↔ k = .pulseStart ∧ e ≤ s.params.tSync ∧ s.params.tBounce ≤ e) ∧
      (o = .one ↔ k = .pulseEnd ∧ s.params.tWinLo ≤ e ∧ e < s.params.tWinHi ∧ s.params.tSplit ≤ l) ∧
      (o = .zero ↔ k = .pulseEnd ∧ s.params.tWinLo ≤ e ∧ e < s.params.tWinHi ∧ l < s.params.tSplit) ∧
      (o = .ignore ↔ k = .pulseEnd ∧ (e < s.params.tWinLo ∨ s.params.tWinHi ≤ e))

/-- The classifier and the source's literal order agree on every input whenever T_WIN_HI ≤ T_BOUNCE, as at the defaults;
with parameters where T_WIN_HI > T_BOUNCE they can differ. -/
def Obligations.ClassifierAgreesWithTheLiteralOrder : Prop :=
  (∀ (p : Config.Params) (k : EdgeKind) (e l : Nat), p.tWinHi ≤ p.tBounce →
    classify p k e l = classifyLiteral p k e l) ∧
  Config.params.tWinHi ≤ Config.params.tBounce ∧
  ∃ (p : Config.Params) (k : EdgeKind) (e l : Nat), p.Valid ∧ e < 2 ^ p.W ∧ l < 2 ^ p.W ∧
    classify p k e l ≠ classifyLiteral p k e l

/-- R71: after INIT, PULSE, BIT0 and BIT1 complete, and their next state is the one their two EDGE steps leave, the
first step's outputs kept in the model's result field (the model's choice, log 9). -/
def Obligations.PulseIsItsTwoEdgeSteps : Prop :=
  ∀ (t w : Nat) (s : State), s.initialised = true →
    ∃ a b a0 b0 a1 b1 : State,
      exec (.edge s.params.pulseLevel t) s = .next a ∧
        exec (.edge (1 - s.params.pulseLevel) (pulseEnd s.params t w)) a = .next b ∧
        exec (.pulse t w) s = .next { b with returned := .firstStep a.out } ∧
      exec (.edge s.params.pulseLevel t) s = .next a0 ∧
        exec (.edge (1 - s.params.pulseLevel) (pulseEnd s.params t 100)) a0 = .next b0 ∧
        exec (.bit0 t) s = .next { b0 with returned := .firstStep a0.out } ∧
      exec (.edge s.params.pulseLevel t) s = .next a1 ∧
        exec (.edge (1 - s.params.pulseLevel) (pulseEnd s.params t 200)) a1 = .next b1 ∧
        exec (.bit1 t) s = .next { b1 with returned := .firstStep a1.out }

/-- R71's last sentence: with thresholds that tell the two pulses apart, as the defaults do, and a pulse-start edge that sets
the baseline and is neither a minute sync nor a bounce, BIT0 appends a 0 and BIT1 a 1. -/
def Obligations.BitPulsesAppendTheirBit : Prop :=
  ∀ (t : Nat) (s : State), AwaitsPulseStart s → SecondPulses s.params →
    s.params.tDebounce < s.elapsed t → s.params.tBounce ≤ s.elapsed t → s.elapsed t ≤ s.params.tSync →
    s.cursor.toNat < 60 →
    ∃ (c : Cursor) (b : Buffer), c.toNat = s.cursor.toNat + 1 ∧
      (∀ i, i < 60 → b.getLsbD i = (s.bits.getLsbD i || decide (i = s.cursor.toNat))) ∧
      exec (.bit0 t) s =
        .next
          { s with
            cursor := c, tBase := t, tPulse := t, prevLevel := 1 - s.params.pulseLevel,
            out := Outputs.only .bitAppended, returned := .firstStep (Outputs.only .edgeRecorded) } ∧
      exec (.bit1 t) s =
        .next
          { s with
            bits := b, cursor := c, tBase := t, tPulse := t, prevLevel := 1 - s.params.pulseLevel,
            out := Outputs.only .bitAppended, returned := .firstStep (Outputs.only .edgeRecorded) }

/-! ## The telegram buffer (spec/41_telegram_buffer.md) -/

/-- R100: with room, APPEND sets the bit at the cursor for a 1, leaves it as it is for a 0, and moves the cursor up by
one; with the buffer full the bit is not stored and the buffer is empty after. -/
def Obligations.AppendWritesTheBitAtTheCursor : Prop :=
  ∀ (v : Bool) (s : State),
    (s.cursor.toNat < 60 →
      ∃ (b : Buffer) (c : Cursor), c.toNat = s.cursor.toNat + 1 ∧
        (∀ i, i < 60 → b.getLsbD i = (s.bits.getLsbD i || (decide (i = s.cursor.toNat) && v))) ∧
        exec (.append v) s = .next { s with bits := b, cursor := c, returned := .status .bitAppended }) ∧
    (60 ≤ s.cursor.toNat →
      exec (.append v) s = .next { s with bits := 0, cursor := 0, returned := .status .bufferOverflow })

/-- R51: with an empty buffer and no retreat in between, the k-th bit appended stands at position k, the first at the
least significant bit, and nothing else is set. -/
def Obligations.KthAppendedBitStandsAtPositionK : Prop :=
  ∀ (vs : List Bool) (s : State), vs.length ≤ 60 → s.bits = 0 → s.cursor = 0 →
    ∃ (b : Buffer) (c : Cursor) (r : Returned), c.toNat = vs.length ∧
      (∀ k, k < 60 → b.getLsbD k = vs.getD k false) ∧
      appendAll vs s = .next { s with bits := b, cursor := c, returned := r }

/-- The 61st bit appended since the buffer was empty is not stored: the telegram is discarded and the next bit starts a
fresh one. -/
def Obligations.SixtyFirstBitDiscardsTheTelegram : Prop :=
  ∀ (vs : List Bool) (s : State), vs.length = 61 → s.bits = 0 → s.cursor = 0 →
    appendAll vs s = .next { s with returned := .status .bufferOverflow }

/-- R102: RETREAT takes the cursor down by one, not below 0, and writes nothing else. -/
def Obligations.RetreatStopsAtZero : Prop :=
  ∀ s : State, ∃ c : Cursor, c.toNat = s.cursor.toNat - 1 ∧
    exec .retreat s = .next { s with cursor := c, returned := .nothing }

/-- R104: NORMALIZE puts bit `q - s` at position `q` and zeros below `s`, the bits shifted past 59 lost, and writes no
register; the same holds of the operation at every parameter value. -/
def Obligations.NormalizeMovesEachBitUpByTheShift : Prop :=
  ∀ (bits : Buffer) (cursor : Cursor),
    (∀ (p : Config.Params) (q : Nat), q < 60 →
      (normalize p bits cursor).getLsbD q =
        if cursor.toNat ≤ p.normLast + 1 then
          decide (p.normLast + 1 - cursor.toNat ≤ q) && bits.getLsbD (q - (p.normLast + 1 - cursor.toNat))
        else bits.getLsbD q) ∧
    ∀ s : State,
      exec (.normalize bits cursor) s = .next { s with returned := .buffer (normalize s.params bits cursor) }

/-- At NORM_LAST = 59 the last written bit lands on position 59, and whatever stale bits stand at or above the cursor
cannot change the normalized telegram. -/
def Obligations.StaleBitsAreDroppedByNormalize : Prop :=
  ∀ (p : Config.Params) (bits bits' : Buffer) (cursor : Cursor), p.normLast = 59 → 0 < cursor.toNat →
    cursor.toNat ≤ 60 → (∀ i, i < cursor.toNat → bits.getLsbD i = bits'.getLsbD i) →
    normalize p bits cursor = normalize p bits' cursor ∧
      (normalize p bits cursor).getLsbD 59 = bits.getLsbD (cursor.toNat - 1)

/-- R106: RESET clears the buffer and the cursor and touches nothing else. -/
def Obligations.ResetClearsOnlyTheBuffer : Prop :=
  ∀ s : State, exec .reset s = .next { s with bits := 0, cursor := 0, returned := .nothing }

/-! ## Finalize, BCD, parity (spec/42_finalize_bcd.md, spec/43_parity.md) -/

/-- R121, R122: an overflow finalize, and a sync finalize at or below MIN_CURSOR, reset the buffer and do nothing else
but return their code. -/
def Obligations.OverflowAndShortTelegramsAreDiscarded : Prop :=
  ∀ s : State,
    exec (.finalize .overflow) s = .next { s with bits := 0, cursor := 0, returned := .status .bufferOverflow } ∧
      (s.cursor.toNat ≤ s.params.minCursor →
        exec (.finalize .sync) s = .next { s with bits := 0, cursor := 0, returned := .status .telegramTooShort })

/-- R126, R127, R145: a telegram longer than MIN_CURSOR is checked, parity before date, against the single pass of R140
and the raw month and year of the normalized telegram; `pf` holds the three computed parities; the ports change only on
delivery. -/
def Obligations.LongTelegramIsChecked : Prop :=
  ∀ s : State, s.params.minCursor < s.cursor.toNat →
    ∃ (n : Buffer) (q : Parities) (t : State),
      n = normalize s.params s.bits s.cursor ∧ q = parityPass n ∧ exec (.finalize .sync) s = .next t ∧
        t = { s with bits := 0, cursor := 0, pf := t.pf, out := t.out, returned := t.returned } ∧
        t.pf.getLsbD 2 = q.minute ∧ t.pf.getLsbD 1 = q.hour ∧ t.pf.getLsbD 0 = q.date ∧
        (q.minute ≠ n.getLsbD 28 ∨ q.hour ≠ n.getLsbD 35 ∨ q.date ≠ n.getLsbD 58 →
          t.returned = .status .parityMismatch ∧ t.out = s.out) ∧
        (q.minute = n.getLsbD 28 → q.hour = n.getLsbD 35 → q.date = n.getLsbD 58 →
          (n.toNat / 2 ^ 45 % 2 ^ 5 = 0 ∨ n.toNat / 2 ^ 50 % 2 ^ 8 = 0 →
            t.returned = .status .invalidDateFields ∧ t.out = s.out) ∧
          (n.toNat / 2 ^ 45 % 2 ^ 5 ≠ 0 → n.toNat / 2 ^ 50 % 2 ^ 8 ≠ 0 →
            t.returned = .status .telegramDelivered ∧
              t.out = { s.out with recValid := true, record := t.out.record }))

/-- R128, R133: a telegram that passes the checks is delivered in the same step: the record holds the BCD conversion of
each field of the normalized telegram and the raw zone code, with no range check, and whatever command comes next
presents no record. -/
def Obligations.PassingTelegramIsDeliveredDecoded : Prop :=
  ∀ (s : State) (n : Buffer), s.params.minCursor < s.cursor.toNat → n = normalize s.params s.bits s.cursor →
    (parityPass n).minute = n.getLsbD 28 → (parityPass n).hour = n.getLsbD 35 → (parityPass n).date = n.getLsbD 58 →
    n.toNat / 2 ^ 45 % 2 ^ 5 ≠ 0 → n.toNat / 2 ^ 50 % 2 ^ 8 ≠ 0 →
    ∃ t : State, exec (.finalize .sync) s = .next t ∧ t.returned = .status .telegramDelivered ∧
      t.out.recValid = true ∧
      t.out.record.minute.toNat = n.toNat / 2 ^ 21 % 2 ^ 7 - n.toNat / 2 ^ 21 % 2 ^ 7 / 16 * 6 ∧
      t.out.record.hour.toNat = n.toNat / 2 ^ 29 % 2 ^ 6 - n.toNat / 2 ^ 29 % 2 ^ 6 / 16 * 6 ∧
      t.out.record.day.toNat = n.toNat / 2 ^ 36 % 2 ^ 6 - n.toNat / 2 ^ 36 % 2 ^ 6 / 16 * 6 ∧
      t.out.record.month.toNat = n.toNat / 2 ^ 45 % 2 ^ 5 - n.toNat / 2 ^ 45 % 2 ^ 5 / 16 * 6 ∧
      t.out.record.year.toNat = n.toNat / 2 ^ 50 % 2 ^ 8 - n.toNat / 2 ^ 50 % 2 ^ 8 / 16 * 6 ∧
      t.out.record.zone.toNat = n.toNat / 2 ^ 17 % 2 ^ 2 ∧
      ∀ (w : Nat) (c : CmdWord w) (u : State), exec (decode c) t = .next u → u.out.recValid = false ∧
        u.out.record = Record.zero

/-- R129: every finalize, on every outcome, leaves the buffer empty, whether it ran alone or inside a host command. -/
def Obligations.EveryFinalizeEmptiesTheBuffer : Prop :=
  (∀ (r : FinalizeReason) (s : State), ∃ t, exec (.finalize r) s = .next t ∧ t.bits = 0 ∧ t.cursor = 0) ∧
  ∀ (w : Nat) (c : CmdWord w) (s t : State) (k : Status), exec (decode c) s = .next t → t.out.status = some k →
    k.isFinalize = true → t.bits = 0 ∧ t.cursor = 0

/-- R123: BCD is `r - (r / 16) * 6` exactly, never above `r`, and 0 only for 0; no register is written. -/
def Obligations.BcdTransformIsExact : Prop :=
  ∀ (w : Nat) (r : BitVec w) (s : State),
    exec (.bcd w r) s = .next { s with returned := .decimal (r.toNat - r.toNat / 16 * 6) } ∧
      r.toNat / 16 * 6 ≤ r.toNat ∧ (bcd r).toNat = r.toNat - r.toNat / 16 * 6 ∧ (bcd r = 0 ↔ r = 0)

/-- On a valid pair of digits BCD gives the two-digit decimal value. -/
def Obligations.BcdIsDecimalOnValidDigits : Prop :=
  ∀ (w h l : Nat) (r : BitVec w) (s : State), r.toNat = 16 * h + l → l ≤ 9 →
    exec (.bcd w r) s = .next { s with returned := .decimal (10 * h + l) }

/-- R140: PARITY's three trees give what the source's single pass captures, over 7, 6 and 22 inputs, and no register is
written. -/
def Obligations.ParityTreesAreTheSinglePass : Prop :=
  ∀ (n : Buffer) (s : State),
    exec (.parity n) s = .next { s with returned := .parities (parityPass n).flags } ∧
      (parityPass n).minute = ((List.range' 21 7).map n.getLsbD).foldl xor false ∧
      (parityPass n).hour = ((List.range' 29 6).map n.getLsbD).foldl xor false ∧
      (parityPass n).date = ((List.range' 36 22).map n.getLsbD).foldl xor false

/-- Even parity: a segment passes exactly when its data bits and its parity bit together hold an even number of ones. -/
def Obligations.SegmentsPassOnEvenParity : Prop :=
  ∀ n : Buffer,
    ((parity n).minute = minuteParityBit n ↔ onesFrom n 21 8 % 2 = 0) ∧
      ((parity n).hour = hourParityBit n ↔ onesFrom n 29 7 % 2 = 0) ∧
      ((parity n).date = dateParityBit n ↔ onesFrom n 36 23 % 2 = 0)

/-- R146: in a 60-bit telegram that is delivered (NORM_LAST at most 59, R6), flipping any one bit of 21 to 58 gives
PARITY_MISMATCH and no record; flipping a bit of 0 to 20, or bit 59, still delivers, with the same record but for the zone's
bits 17 and 18. -/
def Obligations.OneFlippedBitSuppressesTheRecord : Prop :=
  ∀ (s t : State) (n : Buffer) (i : Nat), s.params.normLast ≤ 59 → i < 60 →
    exec (.finalize .sync) { s with bits := n, cursor := 60 } = .next t → t.returned = .status .telegramDelivered →
    ∃ u, exec (.finalize .sync) { s with bits := flipBit n i, cursor := 60 } = .next u ∧
      (21 ≤ i → i ≤ 58 → u.returned = .status .parityMismatch ∧ u.out = s.out) ∧
      (i ≤ 20 ∨ i = 59 → u.returned = .status .telegramDelivered ∧
        u.out = { t.out with record := { t.out.record with zone := u.out.record.zone } } ∧
        (u.out.record.zone = t.out.record.zone ↔ i ≠ 17 ∧ i ≠ 18))

/-- Every record that any step presents has a month and a year other than 0. -/
def Obligations.DeliveredDatesAreNonZero : Prop :=
  ∀ s t : State, step s = .next t → t.out.recValid = true → 1 ≤ t.out.record.month.toNat ∧ 1 ≤ t.out.record.year.toNat

/-! ## Outputs (spec/10_state.md, spec/30_encoding.md) -/

/-- R66 and R157: the twelve codes; NOP, INIT and SNAP drive their one code, EDGE a code of 3 to 11; `rec_valid` only,
and always, with code 11; `snap_valid` only, and always, with SNAP. -/
def Obligations.EachCommandDrivesItsOutputs : Prop :=
  [Status.nopDone, .initDone, .snapshotRead, .edgeRecorded, .bitAppended, .noiseIgnored, .bounceCorrected,
      .telegramTooShort, .parityMismatch, .invalidDateFields, .bufferOverflow, .telegramDelivered].map Status.code =
    [0, 1, 2, 3, 4, 5, 6, 7, 8, 9, 10, 11] ∧
  ∀ (w : Nat) (c : CmdWord w) (s t : State), exec (decode c) s = .next t →
    ∃ k : Status, t.out.status = some k ∧
      (opField c = 0b00#2 → k.code = 0) ∧
      (opField c = 0b10#2 → k.code = 1) ∧
      (opField c = 0b11#2 → k.code = 2) ∧
      (opField c = 0b01#2 → 3 ≤ k.code.toNat ∧ k.code.toNat ≤ 11) ∧
      (t.out.recValid = true ↔ k.code = 11) ∧
      (t.out.snapValid = true ↔ opField c = 0b11#2)

/-- R36: in the step of any command, each port that the command does not drive is at its default, `status` is driven, and
no output depends on what the ports held before. -/
def Obligations.UndrivenPortsAreAtTheirDefaults : Prop :=
  (∀ (w : Nat) (c : CmdWord w) (s t : State), exec (decode c) s = .next t →
    t.out.status.isSome = true ∧ (t.out.recValid = false → t.out.record = Record.zero) ∧
      (t.out.status ≠ some .telegramDelivered → t.out.recValid = false) ∧
      (t.out.snapValid = false → t.out.snapData = 0) ∧ (t.out.status ≠ some .snapshotRead → t.out.snapValid = false)) ∧
  ∀ (w : Nat) (c : CmdWord w) (s : State) (o : Outputs) (r : Returned),
    exec (decode c) { s with out := o, returned := r } = exec (decode c) s

/-! ## Invariants and whole-machine rules -/

/-- R6, R30: the parameters' defaults are the document's literals and meet the constraints; a machine runs on the parameters
it was built with, and no instruction and no step, past a fault or not, changes them. -/
def Obligations.ParametersAreFixedAtTheBuild : Prop :=
  Config.params =
      { W := 32, pulseLevel := 1, tWinLo := 50, tWinHi := 250, tSplit := 150, tSync := 1200, tBounce := 300,
        tDebounce := 300, minCursor := 44, normLast := 59 } ∧
    Config.params.Valid ∧ State.reset.params = Config.params ∧
    (∀ p, (State.resetOf p).params = p ∧ (State.powerOn p).params = p) ∧
    (∀ (i : Instr) (s t : State), exec i s = .next t → t.params = s.params) ∧
    ∀ (n : Nat) (s : State), (Nat.iterate advance n s).params = s.params

/-- The invariant of R31 holds in the reset state of every build. -/
def Obligations.InvariantHoldsAtReset : Prop :=
  ∀ p : Config.Params, Inv (State.resetOf p)

/-- Every step from any state with the invariant of R31 keeps it: the cursor is at most 60, an idle CORE's buffer is
empty, a step that ran a finalize leaves the buffer empty, and the timestamps fit their W-bit registers. -/
def Obligations.EveryStepKeepsTheInvariant : Prop :=
  ∀ s t : State, Inv s → step s = .next t → Inv t

/-- R23: `phase` is IDLE after INIT and TRACKING after every edge; of all instructions only INIT returns it to IDLE, and
only an edge leaves IDLE. -/
def Obligations.OnlyInitReturnsToIdle : Prop :=
  (∀ s : State, ∃ t, exec .init s = .next t ∧ t.phase = .idle) ∧
  (∀ (lv : Level) (ts : Nat) (s t : State), exec (.edge lv ts) s = .next t → t.phase = .tracking) ∧
  ∀ (i : Instr) (s t : State), exec i s = .next t →
    (s.phase = .tracking → t.phase = .idle → i = .init) ∧
      (s.phase = .idle → t.phase = .tracking →
        (∃ lv ts, i = .edge lv ts) ∨ (∃ x w, i = .pulse x w) ∨ (∃ x, i = .bit0 x) ∨ ∃ x, i = .bit1 x)

/-- The parity flags left by one telegram never reach a later output: whatever `pf` holds, a run drives the same outputs
and ends in the same state but for `pf`. -/
def Obligations.ParityFlagsNeverReachAnOutput : Prop :=
  ∀ (cs : List Nat) (s u : State) (x : BitVec 3) (outs : List Outputs), observe cs s = .next (outs, u) →
    ∃ y, observe cs { s with pf := x } = .next (outs, { u with pf := y })

/-- While IDLE the timing registers and the previous level are never read: whatever they hold, a run drives the same
outputs. -/
def Obligations.IdleTimingStateIsNeverRead : Prop :=
  ∀ (cs : List Nat) (s u : State) (l : Level) (b q : Nat) (outs : List Outputs), s.phase = .idle →
    observe cs s = .next (outs, u) →
    ∃ u', observe cs { s with prevLevel := l, tBase := b, tPulse := q } = .next (outs, u')

/-- No timeout, and no side effect of reading: any run of NOP and SNAP alone leaves every register as it was, a telegram
in the buffer included. -/
def Obligations.OnlyEdgesAndInitChangeRegisters : Prop :=
  ∀ (cs : List Nat) (s u : State) (outs : List Outputs),
    (∀ c ∈ cs, opField (portWord s.params.W c) = 0b00#2 ∨ opField (portWord s.params.W c) = 0b11#2) →
      observe cs s = .next (outs, u) →
    u = { s with out := u.out, returned := u.returned }

/-- After an edge that finalized, SNAP reads 0: nothing observes the normalized buffer. -/
def Obligations.SnapAfterFinalizeReadsZero : Prop :=
  ∀ (lv : Level) (ts : Nat) (s t : State) (k : Status), exec (.edge lv ts) s = .next t → t.out.status = some k →
    k.isFinalize = true →
    ∃ u, exec .snap t = .next u ∧ u.out.snapValid = true ∧ u.out.snapData = 0

/-- Any 60-bit telegram, sent after INIT as a minute of 60 pulses and a sync edge to a CORE whose thresholds take such
pulses, as the defaults do, is finalized by the last edge as the whole telegram in a full buffer, and no earlier step
presents a record: of 122 outputs only the last can. -/
def Obligations.MinuteOfPulsesIsDecodedOnce : Prop :=
  ∀ (n : Buffer) (s : State), SecondPulses s.params →
    ∃ (outs : List Outputs) (o : Outputs) (u f : State) (k : Status),
      observe (programWords s.params (minuteOf s.params n)) s = .next (outs ++ [o], u) ∧ outs.length = 121 ∧
        (∀ x ∈ outs, x.recValid = false) ∧
        exec (.finalize .sync) { State.resetOf s.params with bits := n, cursor := 60, out := Outputs.defaults } =
          .next f ∧
        f.returned = .status k ∧ o = { f.out with status := some k } ∧ u.bits = 0 ∧ u.cursor = 0 ∧ u.pf = f.pf
end

