-- ==== Sys2Proof/Laws/Decode.lean ====
section
/-! SUPPORT. The fields of a command word after it is assembled, and what the decoder can answer. -/

namespace Sys2Proof

/-! ## The fields of an assembled word -/

theorem commandWord_getLsbD {w : Nat} (op : BitVec 2) (lv : BitVec 1) (ts : BitVec w) (i : Nat) :
    (commandWord op lv ts).getLsbD i =
      (if i < w then ts.getLsbD i else if i = w then lv.getLsbD 0 else op.getLsbD (i - (w + 1))) := by
  simp only [commandWord, BitVec.getLsbD_or, BitVec.getLsbD_shiftLeft, BitVec.getLsbD_setWidth]
  rcases Nat.lt_trichotomy i w with h | h | h
  · simp [h, show i < w + 1 by omega, show i < w + 3 by omega]
  · subst h
    simp [BitVec.getLsbD_of_ge]
  · rw [if_neg (by omega), if_neg (by omega), BitVec.getLsbD_of_ge lv (i - w) (by omega),
      BitVec.getLsbD_of_ge ts i (by omega)]
    rcases Nat.lt_or_ge i (w + 3) with h3 | h3
    · simp [h3, show ¬ i < w + 1 by omega, show i - (w + 1) < w + 3 by omega]
    · rw [BitVec.getLsbD_of_ge op (i - (w + 1)) (by omega)]
      simp

@[simp] theorem opField_commandWord {w : Nat} (op : BitVec 2) (lv : BitVec 1) (ts : BitVec w) :
    opField (commandWord op lv ts) = op := by
  apply BitVec.eq_of_getLsbD_eq
  intro i hi
  simp [opField, commandWord_getLsbD, hi, show ¬ w + 1 + i < w by omega,
    show ¬ w + 1 + i = w by omega]

@[simp] theorem lvField_commandWord {w : Nat} (op : BitVec 2) (lv : BitVec 1) (ts : BitVec w) :
    lvField (commandWord op lv ts) = lv := by
  apply BitVec.eq_of_getLsbD_eq
  intro i hi
  obtain rfl : i = 0 := by omega
  rw [lvField, BitVec.getLsbD_extractLsb', commandWord_getLsbD]
  simp

@[simp] theorem tsField_commandWord {w : Nat} (op : BitVec 2) (lv : BitVec 1) (ts : BitVec w) :
    tsField (commandWord op lv ts) = ts := by
  apply BitVec.eq_of_getLsbD_eq
  intro i hi
  simp [tsField, commandWord_getLsbD, hi]

/-! ## The decoder -/

theorem decode_nop {w : Nat} {c : CmdWord w} (h : opField c = 0b00#2) : decode c = .nop := by
  simp [decode, h]

theorem decode_edge {w : Nat} {c : CmdWord w} (h : opField c = 0b01#2) : decode c = .edge (lvField c) (tsField c).toNat := by
  simp [decode, h]

theorem decode_init {w : Nat} {c : CmdWord w} (h : opField c = 0b10#2) : decode c = .init := by
  simp [decode, h]

theorem decode_snap {w : Nat} {c : CmdWord w} (h : opField c = 0b11#2) : decode c = .snap := by
  simp [decode, h]

/-- Every word is one of the four host commands (R61). -/
theorem decode_cases {w : Nat} (c : CmdWord w) :
    decode c = .nop ∨ (∃ lv ts, decode c = .edge lv ts) ∨ decode c = .init ∨ decode c = .snap := by
  rcases (by decide : ∀ o : BitVec 2, o = 0b00#2 ∨ o = 0b01#2 ∨ o = 0b10#2 ∨ o = 0b11#2) (opField c) with
    h | h | h | h
  · exact .inl (decode_nop h)
  · exact .inr (.inl ⟨_, _, decode_edge h⟩)
  · exact .inr (.inr (.inl (decode_init h)))
  · exact .inr (.inr (.inr (decode_snap h)))

theorem decode_commandWord_edge {w : Nat} (lv : Level) {ts : Nat} (h : ts < 2 ^ w) :
    decode (commandWord 0b01#2 lv (BitVec.ofNat w ts)) = .edge lv ts := by
  rw [decode_edge (by simp)]
  simp [Nat.mod_eq_of_lt h]

/-- A decoded time fits the build's timestamps, so a decoded instruction is well-formed. -/
theorem decode_wellFormed (p : Config.Params) (c : CmdWord p.W) : (decode c).wellFormed p = true := by
  rcases (by decide : ∀ o : BitVec 2, o = 0b00#2 ∨ o = 0b01#2 ∨ o = 0b10#2 ∨ o = 0b11#2) (opField c) with
    h | h | h | h
  · rw [decode_nop h]; rfl
  · rw [decode_edge h]; exact decide_eq_true (tsField c).isLt
  · rw [decode_init h]; rfl
  · rw [decode_snap h]; rfl

/-- The port carries a word as it is. -/
@[simp] theorem portWord_toNat {w : Nat} (c : CmdWord w) : portWord w c.toNat = c := by
  simp [portWord]

/-- A number is decoded exactly when it fits the port. -/
theorem decodeNat_of_lt {w n : Nat} (h : n < 2 ^ (w + 3)) : decodeNat w n = .ok (decode (portWord w n)) :=
  if_pos h

theorem decodeNat_of_ge {w n : Nat} (h : 2 ^ (w + 3) ≤ n) : decodeNat w n = .error .widerThanPort :=
  if_neg (Nat.not_lt.mpr h)

/-! ## Times -/

theorem pulseEnd_lt (p : Config.Params) (t w : Nat) : pulseEnd p t w < 2 ^ p.W :=
  Nat.mod_lt _ (Nat.two_pow_pos p.W)

end Sys2Proof
end

