-- ==== Sys2Proof/Laws/State.lean ====
section
/-! SUPPORT. What each named update of the state does to each field, once, so that no later proof unfolds one. -/

namespace Sys2Proof.Machine

/-! ## beginStep -/

@[simp] theorem State.beginStep_params (s : State) : s.beginStep.params = s.params := rfl
@[simp] theorem State.beginStep_bits (s : State) : s.beginStep.bits = s.bits := rfl
@[simp] theorem State.beginStep_cursor (s : State) : s.beginStep.cursor = s.cursor := rfl
@[simp] theorem State.beginStep_phase (s : State) : s.beginStep.phase = s.phase := rfl
@[simp] theorem State.beginStep_prevLevel (s : State) : s.beginStep.prevLevel = s.prevLevel := rfl
@[simp] theorem State.beginStep_tBase (s : State) : s.beginStep.tBase = s.tBase := rfl
@[simp] theorem State.beginStep_tPulse (s : State) : s.beginStep.tPulse = s.tPulse := rfl
@[simp] theorem State.beginStep_pf (s : State) : s.beginStep.pf = s.pf := rfl
@[simp] theorem State.beginStep_initialised (s : State) : s.beginStep.initialised = s.initialised := rfl
@[simp] theorem State.beginStep_fault (s : State) : s.beginStep.fault = s.fault := rfl
@[simp] theorem State.beginStep_cmds (s : State) : s.beginStep.cmds = s.cmds := rfl
@[simp] theorem State.beginStep_out (s : State) : s.beginStep.out = Outputs.defaults := rfl
@[simp] theorem State.beginStep_returned (s : State) : s.beginStep.returned = .nothing := rfl

/-! ## driveStatus -/

@[simp] theorem State.driveStatus_params (s : State) (c : Status) : (s.driveStatus c).params = s.params := rfl
@[simp] theorem State.driveStatus_bits (s : State) (c : Status) : (s.driveStatus c).bits = s.bits := rfl
@[simp] theorem State.driveStatus_cursor (s : State) (c : Status) : (s.driveStatus c).cursor = s.cursor := rfl
@[simp] theorem State.driveStatus_phase (s : State) (c : Status) : (s.driveStatus c).phase = s.phase := rfl
@[simp] theorem State.driveStatus_prevLevel (s : State) (c : Status) : (s.driveStatus c).prevLevel = s.prevLevel := rfl
@[simp] theorem State.driveStatus_tBase (s : State) (c : Status) : (s.driveStatus c).tBase = s.tBase := rfl
@[simp] theorem State.driveStatus_tPulse (s : State) (c : Status) : (s.driveStatus c).tPulse = s.tPulse := rfl
@[simp] theorem State.driveStatus_pf (s : State) (c : Status) : (s.driveStatus c).pf = s.pf := rfl
@[simp] theorem State.driveStatus_initialised (s : State) (c : Status) :
    (s.driveStatus c).initialised = s.initialised := rfl
@[simp] theorem State.driveStatus_fault (s : State) (c : Status) : (s.driveStatus c).fault = s.fault := rfl
@[simp] theorem State.driveStatus_cmds (s : State) (c : Status) : (s.driveStatus c).cmds = s.cmds := rfl
@[simp] theorem State.driveStatus_out (s : State) (c : Status) :
    (s.driveStatus c).out = { s.out with status := some c } := rfl
@[simp] theorem State.driveStatus_returned (s : State) (c : Status) : (s.driveStatus c).returned = s.returned := rfl

/-! ## deliver -/

@[simp] theorem State.deliver_params (s : State) (r : Record) : (s.deliver r).params = s.params := rfl
@[simp] theorem State.deliver_bits (s : State) (r : Record) : (s.deliver r).bits = s.bits := rfl
@[simp] theorem State.deliver_cursor (s : State) (r : Record) : (s.deliver r).cursor = s.cursor := rfl
@[simp] theorem State.deliver_phase (s : State) (r : Record) : (s.deliver r).phase = s.phase := rfl
@[simp] theorem State.deliver_prevLevel (s : State) (r : Record) : (s.deliver r).prevLevel = s.prevLevel := rfl
@[simp] theorem State.deliver_tBase (s : State) (r : Record) : (s.deliver r).tBase = s.tBase := rfl
@[simp] theorem State.deliver_tPulse (s : State) (r : Record) : (s.deliver r).tPulse = s.tPulse := rfl
@[simp] theorem State.deliver_pf (s : State) (r : Record) : (s.deliver r).pf = s.pf := rfl
@[simp] theorem State.deliver_initialised (s : State) (r : Record) : (s.deliver r).initialised = s.initialised := rfl
@[simp] theorem State.deliver_fault (s : State) (r : Record) : (s.deliver r).fault = s.fault := rfl
@[simp] theorem State.deliver_cmds (s : State) (r : Record) : (s.deliver r).cmds = s.cmds := rfl
@[simp] theorem State.deliver_out (s : State) (r : Record) :
    (s.deliver r).out = { s.out with recValid := true, record := r } := rfl
@[simp] theorem State.deliver_returned (s : State) (r : Record) : (s.deliver r).returned = s.returned := rfl

/-! ## showSnapshot -/

@[simp] theorem State.showSnapshot_params (s : State) : s.showSnapshot.params = s.params := rfl
@[simp] theorem State.showSnapshot_bits (s : State) : s.showSnapshot.bits = s.bits := rfl
@[simp] theorem State.showSnapshot_cursor (s : State) : s.showSnapshot.cursor = s.cursor := rfl
@[simp] theorem State.showSnapshot_phase (s : State) : s.showSnapshot.phase = s.phase := rfl
@[simp] theorem State.showSnapshot_prevLevel (s : State) : s.showSnapshot.prevLevel = s.prevLevel := rfl
@[simp] theorem State.showSnapshot_tBase (s : State) : s.showSnapshot.tBase = s.tBase := rfl
@[simp] theorem State.showSnapshot_tPulse (s : State) : s.showSnapshot.tPulse = s.tPulse := rfl
@[simp] theorem State.showSnapshot_pf (s : State) : s.showSnapshot.pf = s.pf := rfl
@[simp] theorem State.showSnapshot_initialised (s : State) : s.showSnapshot.initialised = s.initialised := rfl
@[simp] theorem State.showSnapshot_fault (s : State) : s.showSnapshot.fault = s.fault := rfl
@[simp] theorem State.showSnapshot_cmds (s : State) : s.showSnapshot.cmds = s.cmds := rfl
@[simp] theorem State.showSnapshot_out (s : State) :
    s.showSnapshot.out = { s.out with snapValid := true, snapData := s.bits } := rfl
@[simp] theorem State.showSnapshot_returned (s : State) : s.showSnapshot.returned = s.returned := rfl

/-! ## reply -/

@[simp] theorem State.reply_params (s : State) (r : Returned) : (s.reply r).params = s.params := rfl
@[simp] theorem State.reply_bits (s : State) (r : Returned) : (s.reply r).bits = s.bits := rfl
@[simp] theorem State.reply_cursor (s : State) (r : Returned) : (s.reply r).cursor = s.cursor := rfl
@[simp] theorem State.reply_phase (s : State) (r : Returned) : (s.reply r).phase = s.phase := rfl
@[simp] theorem State.reply_prevLevel (s : State) (r : Returned) : (s.reply r).prevLevel = s.prevLevel := rfl
@[simp] theorem State.reply_tBase (s : State) (r : Returned) : (s.reply r).tBase = s.tBase := rfl
@[simp] theorem State.reply_tPulse (s : State) (r : Returned) : (s.reply r).tPulse = s.tPulse := rfl
@[simp] theorem State.reply_pf (s : State) (r : Returned) : (s.reply r).pf = s.pf := rfl
@[simp] theorem State.reply_initialised (s : State) (r : Returned) : (s.reply r).initialised = s.initialised := rfl
@[simp] theorem State.reply_fault (s : State) (r : Returned) : (s.reply r).fault = s.fault := rfl
@[simp] theorem State.reply_cmds (s : State) (r : Returned) : (s.reply r).cmds = s.cmds := rfl
@[simp] theorem State.reply_out (s : State) (r : Returned) : (s.reply r).out = s.out := rfl
@[simp] theorem State.reply_returned (s : State) (r : Returned) : (s.reply r).returned = r := rfl

/-! ## recordFault -/

@[simp] theorem State.recordFault_params (s : State) (r : Fault) : (s.recordFault r).params = s.params := rfl
@[simp] theorem State.recordFault_bits (s : State) (r : Fault) : (s.recordFault r).bits = s.bits := rfl
@[simp] theorem State.recordFault_cursor (s : State) (r : Fault) : (s.recordFault r).cursor = s.cursor := rfl
@[simp] theorem State.recordFault_phase (s : State) (r : Fault) : (s.recordFault r).phase = s.phase := rfl
@[simp] theorem State.recordFault_prevLevel (s : State) (r : Fault) : (s.recordFault r).prevLevel = s.prevLevel := rfl
@[simp] theorem State.recordFault_tBase (s : State) (r : Fault) : (s.recordFault r).tBase = s.tBase := rfl
@[simp] theorem State.recordFault_tPulse (s : State) (r : Fault) : (s.recordFault r).tPulse = s.tPulse := rfl
@[simp] theorem State.recordFault_pf (s : State) (r : Fault) : (s.recordFault r).pf = s.pf := rfl
@[simp] theorem State.recordFault_initialised (s : State) (r : Fault) :
    (s.recordFault r).initialised = s.initialised := rfl
@[simp] theorem State.recordFault_fault (s : State) (r : Fault) : (s.recordFault r).fault = some (s.fault.getD r) := rfl
@[simp] theorem State.recordFault_cmds (s : State) (r : Fault) : (s.recordFault r).cmds = s.cmds := rfl
@[simp] theorem State.recordFault_out (s : State) (r : Fault) : (s.recordFault r).out = Outputs.defaults := rfl
@[simp] theorem State.recordFault_returned (s : State) (r : Fault) : (s.recordFault r).returned = .nothing := rfl

/-! ## bufferReset -/

@[simp] theorem State.bufferReset_params (s : State) : s.bufferReset.params = s.params := rfl
@[simp] theorem State.bufferReset_bits (s : State) : s.bufferReset.bits = 0 := rfl
@[simp] theorem State.bufferReset_cursor (s : State) : s.bufferReset.cursor = 0 := rfl
@[simp] theorem State.bufferReset_phase (s : State) : s.bufferReset.phase = s.phase := rfl
@[simp] theorem State.bufferReset_prevLevel (s : State) : s.bufferReset.prevLevel = s.prevLevel := rfl
@[simp] theorem State.bufferReset_tBase (s : State) : s.bufferReset.tBase = s.tBase := rfl
@[simp] theorem State.bufferReset_tPulse (s : State) : s.bufferReset.tPulse = s.tPulse := rfl
@[simp] theorem State.bufferReset_pf (s : State) : s.bufferReset.pf = s.pf := rfl
@[simp] theorem State.bufferReset_initialised (s : State) : s.bufferReset.initialised = s.initialised := rfl
@[simp] theorem State.bufferReset_fault (s : State) : s.bufferReset.fault = s.fault := rfl
@[simp] theorem State.bufferReset_cmds (s : State) : s.bufferReset.cmds = s.cmds := rfl
@[simp] theorem State.bufferReset_out (s : State) : s.bufferReset.out = s.out := rfl
@[simp] theorem State.bufferReset_returned (s : State) : s.bufferReset.returned = s.returned := rfl

/-! ## retreat -/

@[simp] theorem State.retreat_params (s : State) : s.retreat.params = s.params := rfl
@[simp] theorem State.retreat_bits (s : State) : s.retreat.bits = s.bits := rfl
@[simp] theorem State.retreat_cursor (s : State) : s.retreat.cursor = if s.cursor = 0 then 0 else s.cursor - 1 := rfl
@[simp] theorem State.retreat_phase (s : State) : s.retreat.phase = s.phase := rfl
@[simp] theorem State.retreat_prevLevel (s : State) : s.retreat.prevLevel = s.prevLevel := rfl
@[simp] theorem State.retreat_tBase (s : State) : s.retreat.tBase = s.tBase := rfl
@[simp] theorem State.retreat_tPulse (s : State) : s.retreat.tPulse = s.tPulse := rfl
@[simp] theorem State.retreat_pf (s : State) : s.retreat.pf = s.pf := rfl
@[simp] theorem State.retreat_initialised (s : State) : s.retreat.initialised = s.initialised := rfl
@[simp] theorem State.retreat_fault (s : State) : s.retreat.fault = s.fault := rfl
@[simp] theorem State.retreat_cmds (s : State) : s.retreat.cmds = s.cmds := rfl
@[simp] theorem State.retreat_out (s : State) : s.retreat.out = s.out := rfl
@[simp] theorem State.retreat_returned (s : State) : s.retreat.returned = s.returned := rfl

/-! ## initialise -/

@[simp] theorem State.initialise_params (s : State) : s.initialise.params = s.params := rfl
@[simp] theorem State.initialise_bits (s : State) : s.initialise.bits = 0 := rfl
@[simp] theorem State.initialise_cursor (s : State) : s.initialise.cursor = 0 := rfl
@[simp] theorem State.initialise_phase (s : State) : s.initialise.phase = .idle := rfl
@[simp] theorem State.initialise_prevLevel (s : State) : s.initialise.prevLevel = 0 := rfl
@[simp] theorem State.initialise_tBase (s : State) : s.initialise.tBase = 0 := rfl
@[simp] theorem State.initialise_tPulse (s : State) : s.initialise.tPulse = 0 := rfl
@[simp] theorem State.initialise_pf (s : State) : s.initialise.pf = 0 := rfl
@[simp] theorem State.initialise_initialised (s : State) : s.initialise.initialised = true := rfl
@[simp] theorem State.initialise_fault (s : State) : s.initialise.fault = s.fault := rfl
@[simp] theorem State.initialise_cmds (s : State) : s.initialise.cmds = s.cmds := rfl
@[simp] theorem State.initialise_out (s : State) : s.initialise.out = s.out := rfl
@[simp] theorem State.initialise_returned (s : State) : s.initialise.returned = s.returned := rfl

/-! ## moveTiming -/

@[simp] theorem State.moveTiming_params (s : State) (p : Config.Params) (k : EdgeKind) (e : Nat) (lv : Level)
    (ts : Nat) :
    (s.moveTiming p k e lv ts).params = s.params := rfl
@[simp] theorem State.moveTiming_bits (s : State) (p : Config.Params) (k : EdgeKind) (e : Nat) (lv : Level)
    (ts : Nat) :
    (s.moveTiming p k e lv ts).bits = s.bits := rfl
@[simp] theorem State.moveTiming_cursor (s : State) (p : Config.Params) (k : EdgeKind) (e : Nat) (lv : Level)
    (ts : Nat) :
    (s.moveTiming p k e lv ts).cursor = s.cursor := rfl
@[simp] theorem State.moveTiming_phase (s : State) (p : Config.Params) (k : EdgeKind) (e : Nat) (lv : Level)
    (ts : Nat) :
    (s.moveTiming p k e lv ts).phase = s.phase := rfl
@[simp] theorem State.moveTiming_prevLevel (s : State) (p : Config.Params) (k : EdgeKind) (e : Nat) (lv : Level)
    (ts : Nat) :
    (s.moveTiming p k e lv ts).prevLevel = lv := rfl
@[simp] theorem State.moveTiming_tBase (s : State) (p : Config.Params) (k : EdgeKind) (e : Nat) (lv : Level)
    (ts : Nat) :
    (s.moveTiming p k e lv ts).tBase = if p.tDebounce < e then ts else s.tBase := rfl
@[simp] theorem State.moveTiming_tPulse (s : State) (p : Config.Params) (k : EdgeKind) (e : Nat) (lv : Level)
    (ts : Nat) :
    (s.moveTiming p k e lv ts).tPulse = if k = .pulseStart then ts else s.tPulse := rfl
@[simp] theorem State.moveTiming_pf (s : State) (p : Config.Params) (k : EdgeKind) (e : Nat) (lv : Level)
    (ts : Nat) :
    (s.moveTiming p k e lv ts).pf = s.pf := rfl
@[simp] theorem State.moveTiming_initialised (s : State) (p : Config.Params) (k : EdgeKind) (e : Nat) (lv : Level)
    (ts : Nat) :
    (s.moveTiming p k e lv ts).initialised = s.initialised := rfl
@[simp] theorem State.moveTiming_fault (s : State) (p : Config.Params) (k : EdgeKind) (e : Nat) (lv : Level)
    (ts : Nat) :
    (s.moveTiming p k e lv ts).fault = s.fault := rfl
@[simp] theorem State.moveTiming_cmds (s : State) (p : Config.Params) (k : EdgeKind) (e : Nat) (lv : Level)
    (ts : Nat) :
    (s.moveTiming p k e lv ts).cmds = s.cmds := rfl
@[simp] theorem State.moveTiming_out (s : State) (p : Config.Params) (k : EdgeKind) (e : Nat) (lv : Level)
    (ts : Nat) :
    (s.moveTiming p k e lv ts).out = s.out := rfl
@[simp] theorem State.moveTiming_returned (s : State) (p : Config.Params) (k : EdgeKind) (e : Nat) (lv : Level)
    (ts : Nat) :
    (s.moveTiming p k e lv ts).returned = s.returned := rfl

/-! ## withFetchWord -/

@[simp] theorem State.withFetchWord_params (s : State) (nbits w : Nat) : (s.withFetchWord nbits w).params = s.params := rfl
@[simp] theorem State.withFetchWord_bits (s : State) (nbits w : Nat) : (s.withFetchWord nbits w).bits = s.bits := rfl
@[simp] theorem State.withFetchWord_cursor (s : State) (nbits w : Nat) :
    (s.withFetchWord nbits w).cursor = s.cursor := rfl
@[simp] theorem State.withFetchWord_phase (s : State) (nbits w : Nat) : (s.withFetchWord nbits w).phase = s.phase := rfl
@[simp] theorem State.withFetchWord_prevLevel (s : State) (nbits w : Nat) :
    (s.withFetchWord nbits w).prevLevel = s.prevLevel := rfl
@[simp] theorem State.withFetchWord_tBase (s : State) (nbits w : Nat) : (s.withFetchWord nbits w).tBase = s.tBase := rfl
@[simp] theorem State.withFetchWord_tPulse (s : State) (nbits w : Nat) :
    (s.withFetchWord nbits w).tPulse = s.tPulse := rfl
@[simp] theorem State.withFetchWord_pf (s : State) (nbits w : Nat) : (s.withFetchWord nbits w).pf = s.pf := rfl
@[simp] theorem State.withFetchWord_initialised (s : State) (nbits w : Nat) :
    (s.withFetchWord nbits w).initialised = s.initialised := rfl
@[simp] theorem State.withFetchWord_fault (s : State) (nbits w : Nat) : (s.withFetchWord nbits w).fault = s.fault := rfl
@[simp] theorem State.withFetchWord_cmds (s : State) (nbits w : Nat) :
    (s.withFetchWord nbits w).cmds = w :: s.cmds := rfl
@[simp] theorem State.withFetchWord_out (s : State) (nbits w : Nat) : (s.withFetchWord nbits w).out = s.out := rfl
@[simp] theorem State.withFetchWord_returned (s : State) (nbits w : Nat) :
    (s.withFetchWord nbits w).returned = s.returned := rfl

/-! ## shiftTime -/

@[simp] theorem State.shiftTime_params (d : Nat) (s : State) : (s.shiftTime d).params = s.params := rfl
@[simp] theorem State.shiftTime_bits (d : Nat) (s : State) : (s.shiftTime d).bits = s.bits := rfl
@[simp] theorem State.shiftTime_cursor (d : Nat) (s : State) : (s.shiftTime d).cursor = s.cursor := rfl
@[simp] theorem State.shiftTime_phase (d : Nat) (s : State) : (s.shiftTime d).phase = s.phase := rfl
@[simp] theorem State.shiftTime_prevLevel (d : Nat) (s : State) : (s.shiftTime d).prevLevel = s.prevLevel := rfl
@[simp] theorem State.shiftTime_tBase (d : Nat) (s : State) : (s.shiftTime d).tBase = laterBy s.params d s.tBase := rfl
@[simp] theorem State.shiftTime_tPulse (d : Nat) (s : State) : (s.shiftTime d).tPulse = laterBy s.params d s.tPulse := rfl
@[simp] theorem State.shiftTime_pf (d : Nat) (s : State) : (s.shiftTime d).pf = s.pf := rfl
@[simp] theorem State.shiftTime_initialised (d : Nat) (s : State) : (s.shiftTime d).initialised = s.initialised := rfl
@[simp] theorem State.shiftTime_fault (d : Nat) (s : State) : (s.shiftTime d).fault = s.fault := rfl
@[simp] theorem State.shiftTime_cmds (d : Nat) (s : State) : (s.shiftTime d).cmds = s.cmds := rfl
@[simp] theorem State.shiftTime_out (d : Nat) (s : State) : (s.shiftTime d).out = s.out := rfl
@[simp] theorem State.shiftTime_returned (d : Nat) (s : State) : (s.shiftTime d).returned = s.returned := rfl

/-! ## The timing values of an edge are start-of-step values (R81) -/

@[simp] theorem State.beginStep_elapsed (s : State) (ts : Nat) : s.beginStep.elapsed ts = s.elapsed ts := rfl
@[simp] theorem State.beginStep_plen (s : State) (ts : Nat) : s.beginStep.plen ts = s.plen ts := rfl
@[simp] theorem State.beginStep_nextKind (s : State) : s.beginStep.nextKind = s.nextKind := rfl
@[simp] theorem State.beginStep_outcomeAt (s : State) (ts : Nat) : s.beginStep.outcomeAt ts = s.outcomeAt ts := rfl

end Sys2Proof.Machine
end

