-- ==== Sys2Proof/Laws/Ops.lean ====
section
/-! SUPPORT. One lemma for each thing a shared operation can do: the buffer operations, finalize, and the checks. -/

namespace Sys2Proof.Machine

/-! ## The model fault -/

theorem whenInitialised_of_true {s : State} (h : s.initialised = true) (run : State → State) :
    whenInitialised s run = .next (run s) := by
  simp [whenInitialised, h]

theorem whenInitialised_of_false {s : State} (h : s.initialised = false) (run : State → State) :
    whenInitialised s run = .fault .notInitialised := by
  simp [whenInitialised, h]

theorem whenInitialised_next {s t : State} {run : State → State} (h : whenInitialised s run = .next t) :
    s.initialised = true ∧ t = run s := by
  cases hi : s.initialised with
  | true =>
    rw [whenInitialised_of_true hi] at h
    exact ⟨rfl, by injection h with h; exact h.symm⟩
  | false => rw [whenInitialised_of_false hi] at h; cases h

theorem andThen_next {o : Host.Outcome State Fault Refusal} {k : State → Host.Outcome State Fault Refusal} {t : State}
    (h : andThen o k = .next t) : ∃ s, o = .next s ∧ k s = .next t := by
  cases o with
  | next s => exact ⟨s, rfl, h⟩
  | fault r => cases h
  | refused r => cases h

/-! ## append's bit and normalize's shift -/

theorem setBit_getLsbD (bits : Buffer) (cursor : Cursor) (b : Bool) (i : Nat) (hi : i < 60) :
    (setBit bits cursor b).getLsbD i = (bits.getLsbD i || (decide (i = cursor.toNat) && b)) := by
  cases b with
  | false => simp [setBit]
  | true =>
    simp only [setBit, if_true, BitVec.getLsbD_or, BitVec.getLsbD_twoPow, Bool.and_true]
    rcases Nat.decEq i cursor.toNat with h | h
    · simp [h, Ne.symm h]
    · simp [← h, hi]

theorem normalize_getLsbD (p : Config.Params) (bits : Buffer) (cursor : Cursor) (q : Nat) (hq : q < 60) :
    (normalize p bits cursor).getLsbD q =
      (decide (normalizeShift p cursor ≤ q) && bits.getLsbD (q - normalizeShift p cursor)) := by
  rw [normalize, BitVec.getLsbD_shiftLeft]
  simp only [hq, decide_true, Bool.true_and]
  by_cases h : q < normalizeShift p cursor
  · simp [h, Nat.not_le.mpr h]
  · simp [h, Nat.not_lt.mp h]

/-! ## bcd -/

theorem bcd_toNat {w : Nat} (r : BitVec w) : (bcd r).toNat = r.toNat - r.toNat / 16 * 6 := by
  rw [bcd, BitVec.toNat_ofNat]
  have := r.isLt
  exact Nat.mod_eq_of_lt (by omega)

theorem bcd_eq_zero {w : Nat} (r : BitVec w) : bcd r = 0 ↔ r = 0 := by
  rw [← BitVec.toNat_inj, ← BitVec.toNat_inj, bcd_toNat]
  simp only [BitVec.ofNat_eq_ofNat, BitVec.toNat_ofNat, Nat.zero_mod]
  omega

/-! ## The checks -/

theorem verdict_cases (n : Buffer) :
    (parityMatches n = false ∧ verdict n = .parityMismatch) ∨
      (parityMatches n = true ∧ dateOk (unpack n).record = false ∧ verdict n = .invalidDateFields) ∨
      (parityMatches n = true ∧ dateOk (unpack n).record = true ∧ verdict n = .telegramDelivered) := by
  cases hp : parityMatches n <;> cases hd : dateOk (unpack n).record <;> simp [verdict, hp, hd]

theorem dateOk_iff (r : Record) : dateOk r = true ↔ r.month ≠ 0 ∧ r.year ≠ 0 := by
  simp [dateOk]

/-! ## Finalize: what it does, and what it leaves alone -/

theorem State.decodeTelegram_delivered {n : Buffer} (h : verdict n = .telegramDelivered) (s : State) :
    s.decodeTelegram n = (State.bufferReset { s with pf := (parity n).flags }).deliver (unpack n).record := if_pos h

theorem State.decodeTelegram_discarded {n : Buffer} (h : verdict n ≠ .telegramDelivered) (s : State) :
    s.decodeTelegram n = State.bufferReset { s with pf := (parity n).flags } := if_neg h

theorem finalize_overflow (s : State) :
    finalize .overflow s = (s.bufferReset, .bufferOverflow) := rfl

theorem finalize_short {s : State} (h : s.cursor.toNat ≤ s.params.minCursor) :
    finalize .sync s = (s.bufferReset, .telegramTooShort) := by
  simp [finalize, h]

theorem finalize_long {s : State} (h : s.params.minCursor < s.cursor.toNat) :
    finalize .sync s = (s.decodeTelegram (normalize s.params s.bits s.cursor), verdict (normalize s.params s.bits s.cursor)) := by
  simp [finalize, Nat.not_le.mpr h]

/-- The state a finalize leaves is the reset buffer with, on the decode path, new parity flags and, on delivery, the
record ports driven. -/
theorem finalize_cases (r : FinalizeReason) (s : State) :
    (r = .overflow ∧ finalize r s = (s.bufferReset, .bufferOverflow)) ∨
      (r = .sync ∧ s.cursor.toNat ≤ s.params.minCursor ∧ finalize r s = (s.bufferReset, .telegramTooShort)) ∨
      (r = .sync ∧ s.params.minCursor < s.cursor.toNat ∧
        ∃ n, n = normalize s.params s.bits s.cursor ∧ verdict n ≠ .telegramDelivered ∧
          finalize r s = (State.bufferReset { s with pf := (parity n).flags }, verdict n)) ∨
      (r = .sync ∧ s.params.minCursor < s.cursor.toNat ∧
        ∃ n, n = normalize s.params s.bits s.cursor ∧ verdict n = .telegramDelivered ∧
          finalize r s =
            ((State.bufferReset { s with pf := (parity n).flags }).deliver (unpack n).record, .telegramDelivered)) := by
  cases r with
  | overflow => exact .inl ⟨rfl, rfl⟩
  | sync =>
    rcases Nat.lt_or_ge s.params.minCursor s.cursor.toNat with h | h
    · rw [finalize_long h]
      by_cases hv : verdict (normalize s.params s.bits s.cursor) = .telegramDelivered
      · exact .inr (.inr (.inr ⟨rfl, h, _, rfl, hv, by simp [State.decodeTelegram, hv]⟩))
      · exact .inr (.inr (.inl ⟨rfl, h, _, rfl, hv, by simp [State.decodeTelegram, hv]⟩))
    · exact .inr (.inl ⟨rfl, h, finalize_short h⟩)

/-- A finalize ends with one of its five codes (R120). -/
theorem finalize_isFinalize (r : FinalizeReason) (s : State) :
    (finalize r s).2.isFinalize = true := by
  rcases finalize_cases r s with ⟨_, h⟩ | ⟨_, _, h⟩ | ⟨_, _, n, _, hv, h⟩ | ⟨_, _, n, _, _, h⟩
  · rw [h]; rfl
  · rw [h]; rfl
  · rw [h]
    rcases verdict_cases n with ⟨_, e⟩ | ⟨_, _, e⟩ | ⟨_, _, e⟩ <;> simp [e, Status.isFinalize]
  · rw [h]; rfl

@[simp] theorem finalize_bits (r : FinalizeReason) (s : State) : (finalize r s).1.bits = 0 := by
  rcases finalize_cases r s with ⟨_, h⟩ | ⟨_, _, h⟩ | ⟨_, _, _, _, _, h⟩ | ⟨_, _, _, _, _, h⟩ <;> simp [h]

@[simp] theorem finalize_cursor (r : FinalizeReason) (s : State) : (finalize r s).1.cursor = 0 := by
  rcases finalize_cases r s with ⟨_, h⟩ | ⟨_, _, h⟩ | ⟨_, _, _, _, _, h⟩ | ⟨_, _, _, _, _, h⟩ <;> simp [h]

/-- Every field that a finalize does not write: it writes `bits`, `cursor`, `pf` and the record ports only. -/
theorem finalize_frame (r : FinalizeReason) (s : State) :
    ∃ pf out, (finalize r s).1 = { s with bits := 0, cursor := 0, pf := pf, out := out } ∧
      out.status = s.out.status ∧ out.snapValid = s.out.snapValid ∧ out.snapData = s.out.snapData := by
  rcases finalize_cases r s with ⟨_, h⟩ | ⟨_, _, h⟩ | ⟨_, _, n, _, _, h⟩ | ⟨_, _, n, _, _, h⟩
  · exact ⟨s.pf, s.out, by rw [h]; rfl, rfl, rfl, rfl⟩
  · exact ⟨s.pf, s.out, by rw [h]; rfl, rfl, rfl, rfl⟩
  · exact ⟨(parity n).flags, s.out, by rw [h]; rfl, rfl, rfl, rfl⟩
  · exact ⟨(parity n).flags, { s.out with recValid := true, record := (unpack n).record }, by rw [h]; rfl, rfl, rfl, rfl⟩

/-! ## append -/

theorem append_room {s : State} (b : Bool) (h : s.cursor.toNat < 60) :
    append b s = ({ s with bits := setBit s.bits s.cursor b, cursor := s.cursor + 1 }, .bitAppended) := by
  simp [append, Config.capacity, Nat.not_le.mpr h]

theorem append_full {s : State} (b : Bool) (h : 60 ≤ s.cursor.toNat) :
    append b s = (s.bufferReset, .bufferOverflow) := by
  simp [append, Config.capacity, h, finalize_overflow]

theorem append_cases (b : Bool) (s : State) :
    (s.cursor.toNat < 60 ∧
        append b s = ({ s with bits := setBit s.bits s.cursor b, cursor := s.cursor + 1 }, .bitAppended)) ∨
      (60 ≤ s.cursor.toNat ∧ append b s = (s.bufferReset, .bufferOverflow)) := by
  rcases Nat.lt_or_ge s.cursor.toNat 60 with h | h
  · exact .inl ⟨h, append_room b h⟩
  · exact .inr ⟨h, append_full b h⟩

/-- The cursor goes up by exactly one (R109). -/
theorem cursor_succ_toNat {c : Cursor} (h : c.toNat < 60) : (c + 1).toNat = c.toNat + 1 := by
  rw [BitVec.toNat_add]
  exact Nat.mod_eq_of_lt (by simp; omega)

/-! ## retreat -/

theorem retreat_cursor_toNat (s : State) : s.retreat.cursor.toNat = s.cursor.toNat - 1 := by
  rw [State.retreat_cursor]
  split
  · next h => simp [h]
  · next h =>
    have : s.cursor.toNat ≠ 0 := fun e => h (BitVec.eq_of_toNat_eq (by simpa using e))
    rw [BitVec.toNat_sub_of_le (by rw [BitVec.le_def]; simp; omega)]
    rfl

end Sys2Proof.Machine
end

