-- ==== Sys2Proof/Laws/Exec.lean ====
section
/-! SUPPORT. What each instruction does, once: its next state, and for EDGE the case it takes. -/

namespace Sys2Proof.Machine

/-! ## The arms -/

theorem exec_nop (s : State) : exec .nop s = .next (s.beginStep.driveStatus .nopDone) := rfl

theorem exec_init (s : State) : exec .init s = .next (s.beginStep.initialise.driveStatus .initDone) := rfl

theorem exec_snap {s : State} (h : s.initialised = true) :
    exec .snap s = .next (s.beginStep.showSnapshot.driveStatus .snapshotRead) := by
  rw [exec, execSnap, whenInitialised_of_true h]

theorem exec_snap_fault {s : State} (h : s.initialised = false) : exec .snap s = .fault .notInitialised := by
  rw [exec, execSnap, whenInitialised_of_false h]

theorem exec_edge {s : State} (h : s.initialised = true) (lv : Level) (ts : Nat) :
    exec (.edge lv ts) s = .next (edgeStep lv ts s) :=
  whenInitialised_of_true h _

theorem exec_edge_fault {s : State} (h : s.initialised = false) (lv : Level) (ts : Nat) :
    exec (.edge lv ts) s = .fault .notInitialised :=
  whenInitialised_of_false h _

theorem exec_edge_next {s t : State} {lv : Level} {ts : Nat} (h : exec (.edge lv ts) s = .next t) :
    s.initialised = true ∧ t = edgeStep lv ts s :=
  whenInitialised_next h

theorem exec_snap_next {s t : State} (h : exec .snap s = .next t) :
    s.initialised = true ∧ t = s.beginStep.showSnapshot.driveStatus .snapshotRead := by
  rw [exec, execSnap] at h
  exact whenInitialised_next h

/-! ## The classifier -/

theorem classify_cases (p : Config.Params) (k : EdgeKind) (e l : Nat) :
    (k = .pulseStart ∧ p.tSync < e ∧ classify p k e l = .minuteSync) ∨
      (k = .pulseStart ∧ e ≤ p.tSync ∧ e < p.tBounce ∧ classify p k e l = .bounce) ∨
      (k = .pulseStart ∧ e ≤ p.tSync ∧ p.tBounce ≤ e ∧ classify p k e l = .none) ∨
      (k = .pulseEnd ∧ p.tWinLo ≤ e ∧ e < p.tWinHi ∧ p.tSplit ≤ l ∧ classify p k e l = .one) ∨
      (k = .pulseEnd ∧ p.tWinLo ≤ e ∧ e < p.tWinHi ∧ l < p.tSplit ∧ classify p k e l = .zero) ∨
      (k = .pulseEnd ∧ ¬ (p.tWinLo ≤ e ∧ e < p.tWinHi) ∧ classify p k e l = .ignore) := by
  cases k with
  | pulseStart =>
    simp only [classify, true_and, reduceCtorEq, false_and, or_false]
    split
    · next h => exact .inl ⟨h, rfl⟩
    · next h =>
      split
      · next h2 => exact .inr (.inl ⟨Nat.not_lt.mp h, h2, rfl⟩)
      · next h2 => exact .inr (.inr ⟨Nat.not_lt.mp h, Nat.not_lt.mp h2, rfl⟩)
  | pulseEnd =>
    simp only [classify, true_and, reduceCtorEq, false_and, false_or]
    split
    · next h =>
      split
      · next h2 => exact .inl ⟨h.1, h.2, h2, rfl⟩
      · next h2 => exact .inr (.inl ⟨h.1, h.2, Nat.not_le.mp h2, rfl⟩)
    · next h => exact .inr (.inr ⟨h, rfl⟩)

theorem classify_minuteSync {p : Config.Params} {e : Nat} (l : Nat) (h : p.tSync < e) :
    classify p .pulseStart e l = .minuteSync := if_pos h

theorem classify_bounce {p : Config.Params} {e : Nat} (l : Nat) (h : e ≤ p.tSync)
    (hb : e < p.tBounce) : classify p .pulseStart e l = .bounce :=
  (if_neg (Nat.not_lt.mpr h)).trans (if_pos hb)

theorem classify_none {p : Config.Params} {e : Nat} (l : Nat) (h : e ≤ p.tSync)
    (hb : p.tBounce ≤ e) : classify p .pulseStart e l = .none :=
  (if_neg (Nat.not_lt.mpr h)).trans (if_neg (Nat.not_lt.mpr hb))

theorem classify_one {p : Config.Params} {e l : Nat} (h : p.tWinLo ≤ e ∧ e < p.tWinHi)
    (hs : p.tSplit ≤ l) : classify p .pulseEnd e l = .one :=
  (if_pos h).trans (if_pos hs)

theorem classify_zero {p : Config.Params} {e l : Nat} (h : p.tWinLo ≤ e ∧ e < p.tWinHi)
    (hs : l < p.tSplit) : classify p .pulseEnd e l = .zero :=
  (if_pos h).trans (if_neg (Nat.not_le.mpr hs))

theorem classify_ignore {p : Config.Params} {e : Nat} (l : Nat)
    (h : ¬ (p.tWinLo ≤ e ∧ e < p.tWinHi)) : classify p .pulseEnd e l = .ignore := if_neg h

theorem edgeKind_pulseStart {p : Config.Params} {l : Level} : edgeKind p l = .pulseStart ↔ l ≠ p.pulseLevel := by
  simp [edgeKind]

theorem edgeKind_pulseEnd {p : Config.Params} {l : Level} : edgeKind p l = .pulseEnd ↔ l = p.pulseLevel := by
  simp [edgeKind]

/-! ## Elapsed times -/

theorem delta_lt (w a b : Nat) : delta w a b < 2 ^ w := by
  have hw : ((2 ^ w : Nat) : Int) = 2 ^ w := by push_cast; rfl
  have hpos := Nat.two_pow_pos w
  rw [delta, ← hw]
  have := Int.emod_lt_of_pos ((a : Int) - b) (by omega : 0 < ((2 ^ w : Nat) : Int))
  omega

/-- A pulse's end is its width after its start, across the wrap too. -/
theorem delta_pulseEnd (p : Config.Params) (t : Nat) {w : Nat} (h : w < 2 ^ p.W) : delta p.W (pulseEnd p t w) t = w := by
  have hw : ((2 ^ p.W : Nat) : Int) = 2 ^ p.W := by push_cast; rfl
  rw [delta, pulseEnd, ← hw]
  push_cast only [Int.natCast_mod, Int.natCast_add]
  rw [Int.emod_sub_emod, show (t : Int) + w - t = w by omega, Int.emod_eq_of_lt (by omega) (by omega), Int.toNat_natCast]

/-! ## An edge's outcome: the buffer, the flags and the ports -/

/-- What an outcome leaves of the state: it may write the buffer, the cursor, `pf` and the record ports. -/
theorem applyOutcome_frame (o : EdgeOutcome) (s : State) :
    ∃ bits cursor pf out, (applyOutcome o s).1 = { s with bits := bits, cursor := cursor, pf := pf, out := out } ∧
      out.status = s.out.status ∧ out.snapValid = s.out.snapValid ∧ out.snapData = s.out.snapData := by
  have keep : ∃ bits cursor pf out, s = { s with bits := bits, cursor := cursor, pf := pf, out := out } ∧
      out.status = s.out.status ∧ out.snapValid = s.out.snapValid ∧ out.snapData = s.out.snapData :=
    ⟨s.bits, s.cursor, s.pf, s.out, rfl, rfl, rfl, rfl⟩
  have app : ∀ b, ∃ bits cursor pf out,
      (append b s).1 = { s with bits := bits, cursor := cursor, pf := pf, out := out } ∧
        out.status = s.out.status ∧ out.snapValid = s.out.snapValid ∧ out.snapData = s.out.snapData := by
    intro b
    rcases append_cases b s with ⟨_, h⟩ | ⟨_, h⟩
    · exact ⟨_, _, s.pf, s.out, by rw [h], rfl, rfl, rfl⟩
    · exact ⟨0, 0, s.pf, s.out, by rw [h]; rfl, rfl, rfl, rfl⟩
  cases o with
  | minuteSync =>
    obtain ⟨pf, out, h, hs⟩ := finalize_frame .sync s
    exact ⟨0, 0, pf, out, h, hs⟩
  | bounce => exact ⟨s.bits, s.retreat.cursor, s.pf, s.out, rfl, rfl, rfl, rfl⟩
  | none => exact keep
  | one => exact app true
  | zero => exact app false
  | ignore => exact keep

/-! ## EDGE -/

theorem phase_cases (s : State) : s.phase = .idle ∨ s.phase = .tracking := by
  cases s.phase
  · exact .inl rfl
  · exact .inr rfl

theorem edgeStep_idle {s : State} (h : s.phase = .idle) (lv : Level) (ts : Nat) :
    edgeStep lv ts s = firstEdge lv ts s.beginStep := by
  simp [edgeStep, h]

theorem edgeStep_tracking {s : State} (h : s.phase = .tracking) (lv : Level) (ts : Nat) :
    edgeStep lv ts s = trackingEdge lv ts s.beginStep := by
  simp [edgeStep, h]

/-- An edge in `TRACKING`, its parts named: the outcome's effect, then the status, then the timing (R93). -/
theorem edgeStep_outcome {s : State} (h : s.phase = .tracking) (lv : Level) (ts : Nat) {o : EdgeOutcome}
    (ho : s.outcomeAt ts = o) :
    edgeStep lv ts s =
      ((applyOutcome o s.beginStep).1.driveStatus (applyOutcome o s.beginStep).2).moveTiming s.params s.nextKind
        (s.elapsed ts) lv ts := by
  subst ho
  rw [edgeStep_tracking h]
  rfl

/-- What EDGE writes and what it leaves alone (R93). -/
theorem edgeStep_frame (lv : Level) (ts : Nat) (s : State) :
    ∃ bits cursor pf tBase tPulse out,
      edgeStep lv ts s =
        { s with bits := bits, cursor := cursor, phase := .tracking, prevLevel := lv, tBase := tBase, tPulse := tPulse,
                 pf := pf, out := out, returned := .nothing } := by
  cases h : s.phase with
  | idle => exact ⟨s.bits, s.cursor, s.pf, ts, ts, _, by rw [edgeStep_idle h]; rfl⟩
  | tracking =>
    obtain ⟨b, c, f, o, ha, -⟩ := applyOutcome_frame (s.outcomeAt ts) s.beginStep
    rw [edgeStep_outcome h lv ts rfl, ha, ← h]
    exact ⟨b, c, f, _, _, _, rfl⟩

@[simp] theorem edgeStep_params (lv : Level) (ts : Nat) (s : State) : (edgeStep lv ts s).params = s.params := by
  obtain ⟨_, _, _, _, _, _, e⟩ := edgeStep_frame lv ts s
  rw [e]

@[simp] theorem edgeStep_initialised (lv : Level) (ts : Nat) (s : State) :
    (edgeStep lv ts s).initialised = s.initialised := by
  obtain ⟨_, _, _, _, _, _, e⟩ := edgeStep_frame lv ts s
  rw [e]

/-! ## The pseudo-instructions -/

theorem pulse_next {s : State} (h : s.initialised = true) (t w : Nat) :
    pulse t w s =
      .next ((edgeStep (1 - s.params.pulseLevel) (pulseEnd s.params t w) (edgeStep s.params.pulseLevel t s)).reply
        (.firstStep (edgeStep s.params.pulseLevel t s).out)) := by
  rw [pulse, execEdge, whenInitialised_of_true h]
  simp only [andThen]
  rw [execEdge, whenInitialised_of_true (by simpa using h)]

theorem pulse_fault {s : State} (h : s.initialised = false) (t w : Nat) : pulse t w s = .fault .notInitialised := by
  rw [pulse, execEdge, whenInitialised_of_false h]
  rfl

end Sys2Proof.Machine
end

