-- ==== Sys2Proof/Laws/PerInstr.lean ====
section
/-! SUPPORT. Statements about every instruction as syntax, one lemma for each constructor. -/

namespace Sys2Proof.Laws.WordCount

/-- How many command words an instruction encodes to: one for a host command (R60), two for a pseudo-instruction
(R71), none for an internal operation. -/
def Statement (i : Instr) : Prop :=
  ∀ p : Config.Params,
    (encode p i).length =
      match i.family with
      | .host => 1
      | .internal => 0
      | .pseudo => 2

theorem nop : Statement .nop := fun _ => rfl
theorem edge (lv : Level) (ts : Nat) : Statement (.edge lv ts) := fun _ => rfl
theorem init : Statement .init := fun _ => rfl
theorem snap : Statement .snap := fun _ => rfl
theorem classify (kind : EdgeKind) (elapsed plen : Nat) : Statement (.classify kind elapsed plen) := fun _ => rfl
theorem append (b : Bool) : Statement (.append b) := fun _ => rfl
theorem retreat : Statement .retreat := fun _ => rfl
theorem normalize (bits : Buffer) (cursor : Cursor) : Statement (.normalize bits cursor) := fun _ => rfl
theorem reset : Statement .reset := fun _ => rfl
theorem finalize (reason : FinalizeReason) : Statement (.finalize reason) := fun _ => rfl
theorem bcd (width : Nat) (raw : BitVec width) : Statement (.bcd width raw) := fun _ => rfl
theorem parity (n : Buffer) : Statement (.parity n) := fun _ => rfl
theorem pulse (t w : Nat) : Statement (.pulse t w) := fun _ => rfl
theorem bit0 (t : Nat) : Statement (.bit0 t) := fun _ => rfl
theorem bit1 (t : Nat) : Statement (.bit1 t) := fun _ => rfl

end Sys2Proof.Laws.WordCount
end

