-- ==== Sys2Proof/Laws/Run.lean ====
section
/-! SUPPORT. Runs: the step on a queue, the host's `run` one step at a time, and `observe` one command at a time. -/

namespace Sys2Proof.Machine

/-! ## The step -/

theorem step_nil {s : State} (h : s.cmds = []) : step s = .next s.beginStep := by
  rw [step, h]

theorem step_cons {s : State} {c : Nat} {rest : List Nat} (h : s.cmds = c :: rest) :
    step s = exec (decode (portWord s.params.W c)) { s with cmds := rest } := by
  rw [step, h]

/-! ## The host's run -/

theorem run_zero (s : State) : Host.Core.run core 0 s = .next s := rfl

theorem run_next {s t : State} (h : step s = .next t) (n : Nat) :
    Host.Core.run core (n + 1) s = Host.Core.run core n t := by
  have hc : core.step s = .next t := h
  exact (Host.Core.run.eq_2 core s n).trans (by rw [hc])

theorem run_fault {s : State} {r : Fault} (h : step s = .fault r) (n : Nat) :
    Host.Core.run core (n + 1) s = .fault r := by
  have hc : core.step s = .fault r := h
  exact (Host.Core.run.eq_2 core s n).trans (by rw [hc])

/-! ## The observation of a run -/

theorem observe_cons_next {c : Nat} {cs : List Nat} {s u : State} {outs : List Outputs}
    (h : observe (c :: cs) s = .next (outs, u)) :
    ∃ t rest, exec (decode (portWord s.params.W c)) s = .next t ∧ observe cs t = .next (rest, u) ∧
      outs = t.out :: rest := by
  rw [observe] at h
  split at h
  · next t ht =>
    split at h
    · next rest v hv =>
      injection h with h
      obtain ⟨rfl, rfl⟩ := Prod.mk.inj h
      exact ⟨t, rest, ht, hv, rfl⟩
    · cases h
    · cases h
  · cases h
  · cases h

theorem observe_cons {c : Nat} {cs : List Nat} {s t u : State} {rest : List Outputs}
    (ht : exec (decode (portWord s.params.W c)) s = .next t) (hr : observe cs t = .next (rest, u)) :
    observe (c :: cs) s = .next (t.out :: rest, u) := by
  rw [observe, ht]
  simp only [hr]

theorem observe_append {cs ds : List Nat} {s t u : State} {outs rest : List Outputs}
    (hc : observe cs s = .next (outs, t)) (hd : observe ds t = .next (rest, u)) :
    observe (cs ++ ds) s = .next (outs ++ rest, u) := by
  induction cs generalizing s outs with
  | nil =>
    injection hc with hc
    obtain ⟨rfl, rfl⟩ := Prod.mk.inj hc
    exact hd
  | cons c cs ih =>
    obtain ⟨v, os, hv, hos, rfl⟩ := observe_cons_next hc
    exact observe_cons hv (ih hos)

end Sys2Proof.Machine
end

