-- ==== Sys2Proof/Machine/Assembler.lean ====
section
/-! DEFINITION. The assembler syntax of R70 and R71 (spec/30_encoding.md): one command a line, `;` starts a comment.
A line is a list of characters. What R70 leaves open about spacing is in log 16. -/

namespace Sys2Proof.Machine

/-- Why a line is no command. -/
inductive AsmError where
  /-- the line's words are those of no command -/
  | notACommand
  /-- an operand is no number, or not below `2^W` -/
  | badNumber
  /-- a level is neither 0 nor 1 -/
  | badLevel
deriving DecidableEq, Repr

/-- One lexical unit of a line. -/
inductive Token where
  | word (cs : List Char)
  | comma
deriving DecidableEq, Repr

/-- R70: `;` starts a comment. -/
def stripComment : List Char → List Char
  | [] => []
  | c :: cs => if c = ';' then [] else c :: stripComment cs

/-- Put one character in front of the tokens of the rest of the line; the flag says that the first token is a word the
character may join. -/
def pushChar (c : Char) (rest : Bool × List Token) : Bool × List Token :=
  if c = ' ' ∨ c = '\t' then (false, rest.2)
  else if c = ',' then (false, .comma :: rest.2)
  else
    match rest with
    | (true, .word cs :: ts) => (true, .word (c :: cs) :: ts)
    | (_, ts) => (true, .word [c] :: ts)

/-- The tokens of a line. -/
def tokens (line : List Char) : List Token :=
  ((stripComment line).foldr pushChar (false, [])).2

/-- A digit's value in a base of at most 16. -/
def digitValue (base : Nat) (c : Char) : Option Nat :=
  let n := c.toNat
  let v := if 48 ≤ n ∧ n ≤ 57 then n - 48
    else if 65 ≤ n ∧ n ≤ 70 then n - 55
    else if 97 ≤ n ∧ n ≤ 102 then n - 87
    else 16
  if v < base then some v else none

/-- The digits of a number, most significant first, after the value read so far. -/
def digitsValue (base : Nat) : Nat → List Char → Option Nat
  | acc, [] => some acc
  | acc, c :: cs =>
    match digitValue base c with
    | some v => digitsValue base (acc * base + v) cs
    | none => none

/-- R70: a decimal or `0x` hexadecimal number. -/
def numberValue : List Char → Option Nat
  | [] => none
  | ['0', 'x'] => none
  | '0' :: 'x' :: ds => digitsValue 16 0 ds
  | ds => digitsValue 10 0 ds

/-- R70: a number below `2^W`. -/
def parseTime (p : Config.Params) (cs : List Char) : Except AsmError Nat :=
  match numberValue cs with
  | some n => if n < 2 ^ p.W then .ok n else .error .badNumber
  | none => .error .badNumber

/-- R70: a level is `0` or `1`. -/
def parseLevel (cs : List Char) : Except AsmError Level :=
  if cs = ['0'] then .ok 0 else if cs = ['1'] then .ok 1 else .error .badLevel

/-- R70, R71: the command of a line's tokens. -/
def parseTokens (p : Config.Params) : List Token → Except AsmError (Option Instr)
  | [] => .ok none
  | [.word ['N', 'O', 'P']] => .ok (some .nop)
  | [.word ['I', 'N', 'I', 'T']] => .ok (some .init)
  | [.word ['S', 'N', 'A', 'P']] => .ok (some .snap)
  | [.word ['E', 'D', 'G', 'E'], .word lv, .comma, .word ts] => do
    return some (.edge (← parseLevel lv) (← parseTime p ts))
  | [.word ['P', 'U', 'L', 'S', 'E'], .word t, .comma, .word w] => do
    return some (.pulse (← parseTime p t) (← parseTime p w))
  | [.word ['B', 'I', 'T', '0'], .word t] => do return some (.bit0 (← parseTime p t))
  | [.word ['B', 'I', 'T', '1'], .word t] => do return some (.bit1 (← parseTime p t))
  | _ => .error .notACommand

/-- The command of a line; a line of spacing and comment alone has none. -/
def parseLine (p : Config.Params) (line : List Char) : Except AsmError (Option Instr) := parseTokens p (tokens line)

/-- The command words of a listing, in the order of its lines. -/
def assemble (p : Config.Params) : List (List Char) → Except AsmError (List (CmdWord p.W))
  | [] => .ok []
  | line :: rest => do
    let i ← parseLine p line
    let ws ← assemble p rest
    return ((i.map (encode p)).getD []) ++ ws

end Sys2Proof.Machine
end

