-- ==== Sys2Proof/Tests/Slice0.lean ====
section
/-! SUPPORT. The model's own tests. Expected results are those of spec/95_test_vectors.md (the `V-` names), of R61, R70
and R71, or worked from a rule by hand. After them, a witness for the hypotheses of each statement that has some. -/

namespace Sys2Proof.Tests

open Sys2Proof Sys2Proof.Machine

/-! ## Helpers -/

/-- The next state, if there is one. -/
def nextOf (o : Host.Outcome State Fault Refusal) : Option State :=
  match o with
  | .next t => some t
  | .fault _ => none
  | .refused _ => none

/-- The fault, if there is one. -/
def faultOf (o : Host.Outcome State Fault Refusal) : Option Fault :=
  match o with
  | .next _ => none
  | .fault r => some r
  | .refused _ => none

/-- A state in `TRACKING`: the start state of a V-E vector. -/
def mid (prev : Level) (base pulse : Nat) (cursor : Cursor) (bits : Buffer) : State :=
  { State.reset with
    bits := bits, cursor := cursor, phase := .tracking, prevLevel := prev, tBase := base, tPulse := pulse }

/-- A state with a buffer. -/
def buf (cursor : Cursor) (bits : Buffer) : State := { State.reset with bits := bits, cursor := cursor }

/-- Before the first INIT, with some register values. -/
def cold : State := { mid 1 7 9 12 0xFFF with initialised := false, out := Outputs.defaults }

/-- The telegram of the source's §8, vector V-P1. -/
def telegram : Buffer := 0x490C43292A20000

/-- The record of V-F1. -/
def telegramRecord : Record := ⟨15, 14, 3, 6, 24, 1⟩

/-- What an instruction leaves in `returned`, `bits` and `cursor`. -/
def bufferAfter (i : Instr) (s : State) : Option (Returned × Buffer × Cursor) :=
  (nextOf (exec i s)).map fun t => (t.returned, t.bits, t.cursor)

/-- What an EDGE leaves: the status, the buffer, and the timing state. -/
def edgeAfter (lv : Level) (ts : Nat) (s : State) :
    Option (Option Status × Buffer × Cursor × Level × Nat × Nat) :=
  (nextOf (exec (.edge lv ts) s)).map fun t => (t.out.status, t.bits, t.cursor, t.prevLevel, t.tBase, t.tPulse)

/-! ## WellFormed refuses the ill-formed -/

theorem test_wf_normalize_cursor_low : (Instr.normalize 0 44).wellFormed Config.params = false := by decide
theorem test_wf_normalize_cursor_high : (Instr.normalize 0 61).wellFormed Config.params = false := by decide
theorem test_wf_normalize_range :
    (Instr.normalize 0 45).wellFormed Config.params ∧ (Instr.normalize 0 60).wellFormed Config.params := by decide
theorem test_wf_edge_time :
    (Instr.edge 1 (2 ^ 32)).wellFormed Config.params = false ∧ (Instr.edge 1 (2 ^ 32 - 1)).wellFormed Config.params := by
  decide
theorem test_wf_pulse_width : (Instr.pulse 0 (2 ^ 32)).wellFormed Config.params = false := by decide
theorem test_wf_classify_time :
    (Instr.classify .pulseStart (2 ^ 32) 0).wellFormed Config.params = false ∧
      (Instr.classify .pulseStart 0 (2 ^ 32)).wellFormed Config.params = false := by decide
theorem test_wf_bcd_width : (Instr.bcd 9 0).wellFormed Config.params = false := by decide
theorem test_wf_bcd_widest : (Instr.bcd 8 0).wellFormed Config.params = true := by decide

/-! ## Decoding and encoding, on words written out from R60, R61, R70 and R71 -/

/-- `op = 00`; V-H8's word has a `ts` of 1234 besides. -/
theorem test_decode_nop :
    decode (0b00000000000000000000000000000000000 : CmdWord 32) = .nop ∧
      decode (0x0000004D2 : CmdWord 32) = .nop := by decide
/-- `01 1 0x000003E8`. -/
theorem test_decode_edge_rise : decode (0b01100000000000000000000001111101000 : CmdWord 32) = .edge 1 1000 := by decide
/-- `01 0 0x0000044C`. -/
theorem test_decode_edge_fall : decode (0b01000000000000000000000010001001100 : CmdWord 32) = .edge 0 1100 := by decide
/-- `op = 10`; V-H7's word has `lv = 1` and every `ts` bit set besides. -/
theorem test_decode_init :
    decode (0b10000000000000000000000000000000000 : CmdWord 32) = .init ∧
      decode (0x5FFFFFFFF : CmdWord 32) = .init := by decide
/-- `op = 11`. -/
theorem test_decode_snap : decode (0b11000000000000000000000000000000000 : CmdWord 32) = .snap := by decide
/-- R71: `PULSE 1000, 100` is R70's two example words, and so is `BIT0 1000`. -/
theorem test_encode_pulse_bit0 :
    encode Config.params (.pulse 1000 100) = [0x3000003E8, 0x20000044C] ∧
      encode Config.params (.bit0 1000) = [0x3000003E8, 0x20000044C] := by
  decide
/-- R71: `BIT1 1000` is `EDGE 1, 1000` and `EDGE 0, 1200` (V-E3's word). -/
theorem test_encode_bit1 : encode Config.params (.bit1 1000) = [0x3000003E8, 0x2000004B0] := by decide
/-- The internal operations have no encoding. -/
theorem test_encode_internal :
    encode Config.params (.append true) = [] ∧ encode Config.params .retreat = [] ∧
      encode Config.params (.finalize .sync) = [] ∧ encode Config.params .reset = [] := by decide
/-- A 36th bit is on no port. -/
theorem test_decode_too_wide : decodeTableWord 40 0x800000000 = none := by decide
theorem test_assemble :
    (assemble Config.params ["INIT".toList, "EDGE 1, 1000 ; up".toList, "  ; nothing".toList, "EDGE 0, 0x44C".toList]).toOption =
      some [0x400000000, 0x3000003E8, 0x20000044C] := by decide
theorem test_assemble_bad_level : (parseLine Config.params "EDGE 2, 1000".toList).toOption = none := by decide

/-! ## Meanings -/

/-- V-H1. -/
theorem test_nop : nextOf (exec .nop cold) = some { cold with out := Outputs.only .nopDone } := by decide
/-- V-H4. -/
theorem test_init : nextOf (exec .init (mid 1 5 6 12 0xFFF)) = some State.reset := by decide
/-- INIT does not clear a recorded fault (R172). -/
theorem test_init_keeps_fault :
    (nextOf (exec .init { cold with fault := some .notInitialised })).map State.fault =
      some (some .notInitialised) := by decide
/-- V-H6. -/
theorem test_snap :
    (nextOf (exec .snap (buf 3 0x5))).map State.out = some ⟨some .snapshotRead, false, Record.zero, true, 0x5⟩ := by
  decide
/-- V-H3. -/
theorem test_snap_cold : faultOf (exec .snap cold) = some .notInitialised := by decide
/-- V-E8c: the window test uses `elapsed` and the split `plen`. -/
theorem test_edge_split_uses_plen :
    edgeAfter 0 1200 (mid 1 1000 1080 0 0) = some (some .bitAppended, 0, 1, 0, 1000, 1080) := by decide
/-- V-E13: an edge across the wrap. -/
theorem test_edge_wrap :
    edgeAfter 0 16 (mid 1 4294967200 4294967200 0 0) =
      some (some .bitAppended, 0, 1, 0, 4294967200, 4294967200) := by decide
/-- V-E10 and V-E11b at the classifier: 1200 and 300 give NONE at an S-edge. -/
theorem test_classify_pulse_start :
    bufferAfter (.classify .pulseStart 1200 0) (buf 7 0x55) = some (.outcome .none, 0x55, 7) ∧
      bufferAfter (.classify .pulseStart 300 0) (buf 7 0x55) = some (.outcome .none, 0x55, 7) := by decide
/-- V-E5 and V-E8b: elapsed 50 is in the window, and a pulse of 150 is One. -/
theorem test_classify_pulse_end :
    bufferAfter (.classify .pulseEnd 50 50) (buf 0 0) = some (.outcome .zero, 0, 0) ∧
      bufferAfter (.classify .pulseEnd 150 150) (buf 0 0) = some (.outcome .one, 0, 0) := by decide
/-- V-A2: a stale 1 survives `append(0)`. -/
theorem test_append_stale : bufferAfter (.append false) (buf 0 0x1) = some (.status .bitAppended, 0x1, 1) := by decide
/-- V-A3: the 60th bit fits. -/
theorem test_append_last :
    bufferAfter (.append true) (buf 59 0) = some (.status .bitAppended, 0x800000000000000, 60) := by decide
/-- V-R1. -/
theorem test_retreat : bufferAfter .retreat (buf 4 0xF) = some (.nothing, 0xF, 3) := by decide
/-- V-R2. -/
theorem test_retreat_floor : bufferAfter .retreat (buf 0 0) = some (.nothing, 0, 0) := by decide
/-- V-N2. -/
theorem test_normalize :
    bufferAfter (.normalize 0x124310CA4A88000 58) (buf 1 1) = some (.buffer telegram, 1, 1) := by decide
/-- V-N6: with `NORM_LAST = 58` a full buffer is not shifted right. -/
theorem test_normalize_58 :
    bufferAfter (.normalize telegram 60) { buf 1 1 with params := { Config.params with normLast := 58 } } =
      some (.buffer telegram, 1, 1) := by decide
/-- R106's example. -/
theorem test_reset : bufferAfter .reset (buf 3 0x5) = some (.nothing, 0, 0) := by decide
/-- V-F3: the telegram in 45 bits. -/
theorem test_finalize_short_minute :
    (nextOf (exec (.finalize .sync) (buf 45 0x92188652544))).map (fun t => (t.returned, t.out.record, t.pf)) =
      some (.status .telegramDelivered, telegramRecord, 0b101) := by decide
/-- V-F8: parity before date. -/
theorem test_finalize_precedence :
    bufferAfter (.finalize .sync) (buf 60 0x490043292E20000) = some (.status .parityMismatch, 0, 0) := by decide
/-- V-B1 and V-B2. -/
theorem test_bcd :
    bufferAfter (.bcd 8 0x24) (buf 0 0) = some (.decimal 24, 0, 0) ∧
      bufferAfter (.bcd 8 0xFF) (buf 0 0) = some (.decimal 165, 0, 0) := by decide
/-- V-P1. -/
theorem test_parity : bufferAfter (.parity telegram) (buf 0 0) = some (.parities 0b101, 0, 0) := by decide
/-- V-P8: a flipped weekday bit is in the date tree. -/
theorem test_parity_weekday :
    bufferAfter (.parity 0x490D43292A20000) (buf 0 0) = some (.parities 0b100, 0, 0) := by decide
/-- Program P1's rows 36 and 37: a pulse of 200 ms after a second's pause appends a 1. -/
theorem test_bit1 :
    (nextOf (exec (.bit1 17000) (mid 0 16000 16000 17 0))).map (fun t => (t.bits, t.cursor, t.tBase, t.tPulse)) =
      some (0x20000, 18, 17000, 17000) := by decide
/-- Program P1's rows 38 and 39. -/
theorem test_bit0 :
    (nextOf (exec (.bit0 18000) (mid 0 17000 17000 18 0x20000))).map (fun t => (t.bits, t.cursor, t.tBase, t.tPulse)) =
      some (0x20000, 19, 18000, 18000) := by decide
/-- V-E15: a pulse of 400 ms is ignored and moves the baseline. -/
theorem test_pulse_long :
    (nextOf (exec (.pulse 1000 400) (mid 0 0 0 3 0))).map (fun t => (t.out.status, t.cursor, t.tBase, t.tPulse)) =
      some (some .noiseIgnored, 3, 1400, 1000) := by decide
/-- V-H2, and the machine carried on past it: the fault is recorded and nothing else is written. -/
theorem test_fault_recorded :
    advance (cold.withFetchWord 40 0x300000000) = { cold with fault := some .notInitialised } := by decide

/-! ## Other builds -/

/-- Program P6's last command on a CORE built with `NORM_LAST = 58`: delivered. -/
theorem test_step_norm_last_58 :
    (nextOf (step (State.withFetchWord
      { mid 0 58000 58000 59 telegram with params := { Config.params with normLast := 58 } } 40 0x30000EA60))).map
        (fun t => (t.out.status, t.out.record)) = some (some .telegramDelivered, telegramRecord) := by decide
/-- The same command at the default `NORM_LAST = 59`: a parity mismatch, and `pf` is 111. -/
theorem test_step_norm_last_59 :
    (nextOf (step ((mid 0 58000 58000 59 telegram).withFetchWord 40 0x30000EA60))).map
        (fun t => (t.out.status, t.pf)) = some (some .parityMismatch, 0b111) := by decide
/-- With `W = 12` a word is 15 bits, `EDGE 0, 16` is `0x2010` (R60), and from a baseline of 4000 it is 112 ms later
(R10), so its pulse is a 0. -/
theorem test_step_width_12 :
    (nextOf (step (State.withFetchWord
      { mid 1 4000 4000 0 0 with params := { Config.params with W := 12 } } 16 0x2010))).map
        (fun t => (t.out.status, t.bits, t.cursor, t.tBase)) = some (some .bitAppended, 0, 1, 4000) := by decide
/-- With `PULSE_LEVEL = 0` the edge that ends a pulse follows a level of 0. -/
theorem test_step_pulse_level_0 :
    (nextOf (exec (.edge 1 1200) { mid 0 1000 1000 0 0 with params := { Config.params with pulseLevel := 0 } })).map
        (fun t => (t.out.status, t.bits)) = some (some .bitAppended, 1) := by decide

/-! ## Witnesses: each statement's hypotheses hold together somewhere, at the ends of their ranges -/

theorem witness_DecodeOfEncodeIsTheCommand :
    (Instr.edge 1 1000).family = .host ∧ (Instr.edge 1 (2 ^ 32 - 1)).wellFormed Config.params = true := by decide

theorem witness_EncodeOfDecodeKeepsEveryReadBit :
    opField (0x3000003E8 : CmdWord 32) = 0b01#2 ∧ opField (0x5FFFFFFFF : CmdWord 32) ≠ 0b01#2 := by decide

theorem witness_EveryWordIsExactlyOneTableRow :
    opField (0x0 : CmdWord 32) = 0b00#2 ∧ opField (0x200000000 : CmdWord 32) = 0b01#2 ∧
      opField (0x400000000 : CmdWord 32) = 0b10#2 ∧ opField (0x7FFFFFFFF : CmdWord 32) = 0b11#2 ∧
      (⟨"NOP", 0x600000000, 0⟩ : OpcodeRow) ∈ opcodeRows ∧
      OpcodeRow.holds ⟨"NOP", 0x600000000, 0⟩ 0x1FFFFFFFF = true := by decide

theorem witness_IgnoredBitsChangeNothing :
    opField (0x5FFFFFFFF : CmdWord 32) = opField (0x400000000 : CmdWord 32) ∧ opField (0x5FFFFFFFF : CmdWord 32) ≠ 0b01#2 ∧
      opField (0x3FFFFFFFF : CmdWord 32) = 0b01#2 ∧ encode Config.params .init = [0x400000000] := by
  decide

theorem witness_PseudoInstructionsExpandToTwoEdges : 2 ^ 32 - 1 < 2 ^ Config.params.W := by decide

theorem witness_StepRunsTheDecodedCommand :
    (State.reset.withFetchWord 40 0x400000000).cmds = [0x400000000] ∧ State.reset.cmds = [] := by decide

theorem witness_PresentedWordIsPerformed :
    0x7FFFFFFFF < 2 ^ (State.reset.params.W + 3) ∧ 2 ^ (State.reset.params.W + 3) ≤ 0x800000000 := by decide

theorem witness_OnlyAMissingInitStopsAnInstruction : mayRun .snap State.reset = true ∧ mayRun .snap cold = false := by
  decide

theorem witness_RunNeverStopsOnceInitialised : State.reset.initialised = true := by decide

theorem witness_ObservedRunIsTheRunOfTheQueue :
    ∃ u outs, observe [0x3000003E8, 0x20000044C] State.reset = .next (outs, u) ∧ u.cursor = 1 :=
  ⟨_, _, rfl, by decide⟩

theorem witness_NopWritesNoRegister : opField (0x1FFFFFFFF : CmdWord 32) = 0b00#2 := by decide

theorem witness_InitGivesTheResetValues : opField (0x5FFFFFFFF : CmdWord 32) = 0b10#2 := by decide

theorem witness_SnapShowsTheRawBuffer :
    opField (0x7FFFFFFFF : CmdWord 32) = 0b11#2 ∧ (buf 3 0x5).initialised = true ∧ cold.initialised = false := by decide

theorem witness_EdgeAndSnapFaultBeforeInit :
    cold.initialised = false ∧ (cold.withFetchWord 40 0x300000000).cmds = [0x300000000] ∧
      decode (0x300000000 : CmdWord 32) = .edge 1 0 ∧ decode (0x600000000 : CmdWord 32) = .snap := by decide

theorem witness_RecordedFaultIsKeptForGood :
    (∃ t, exec .init { cold with fault := some .notInitialised } = .next t) ∧
      ({ cold with fault := some .notInitialised } : State).fault = some .notInitialised :=
  ⟨⟨_, rfl⟩, rfl⟩

theorem witness_FirstEdgeSeedsTheTiming : State.reset.initialised = true ∧ State.reset.phase = .idle := by decide

theorem witness_SyncEdgeFinalizes :
    AwaitsPulseStart (mid 0 1000 1000 0 0) ∧ Config.params.tSync < (mid 0 1000 1000 0 0).elapsed 2201 := by
  exact ⟨⟨rfl, rfl, by decide⟩, by decide⟩

theorem witness_BounceEdgeRetreats :
    AwaitsPulseStart (mid 0 1000 1000 0 0) ∧ (mid 0 1000 1000 0 0).elapsed 1000 < Config.params.tBounce ∧
      (mid 0 1000 1000 0 0).elapsed 1299 < Config.params.tBounce ∧
      (mid 0 1000 1000 0 0).elapsed 1299 ≤ Config.params.tSync ∧ Config.params.tBounce ≤ Config.params.tDebounce := by
  exact ⟨⟨rfl, rfl, by decide⟩, by decide, by decide, by decide, by decide⟩

theorem witness_PlainPulseStartIsRecorded :
    AwaitsPulseStart (mid 0 1000 1000 7 0x55) ∧
      (∀ ts : Nat, ts = 1300 ∨ ts = 1301 ∨ ts = 2200 →
        Config.params.tBounce ≤ (mid 0 1000 1000 7 0x55).elapsed ts ∧
          (mid 0 1000 1000 7 0x55).elapsed ts ≤ Config.params.tSync) := by
  refine ⟨⟨rfl, rfl, by decide⟩, ?_⟩
  rintro ts (rfl | rfl | rfl) <;> decide

theorem witness_PulseEndInTheWindowAppends :
    AwaitsPulseEnd (mid 1 1000 1000 59 0) ∧ AwaitsPulseEnd (mid 1 1000 1000 60 0) ∧
      (∀ ts : Nat, ts = 1050 ∨ ts = 1149 ∨ ts = 1150 ∨ ts = 1249 →
        Config.params.tWinLo ≤ (mid 1 1000 1000 59 0).elapsed ts ∧
          (mid 1 1000 1000 59 0).elapsed ts < Config.params.tWinHi) ∧
      (59 : Cursor).toNat < 60 ∧ 60 ≤ (60 : Cursor).toNat ∧ Config.params.tWinHi ≤ Config.params.tDebounce := by
  refine ⟨⟨rfl, rfl, rfl⟩, ⟨rfl, rfl, rfl⟩, ?_, by decide, by decide, by decide⟩
  rintro ts (rfl | rfl | rfl | rfl) <;> decide

theorem witness_PulseEndOutsideTheWindowIsIgnored :
    AwaitsPulseEnd (mid 1 1000 1000 3 0) ∧ (mid 1 1000 1000 3 0).elapsed 1049 < Config.params.tWinLo ∧
      Config.params.tWinHi ≤ (mid 1 1000 1000 3 0).elapsed 1250 := by
  exact ⟨⟨rfl, rfl, rfl⟩, by decide, by decide⟩

theorem witness_TimingStateAfterEveryEdge :
    (∃ t, exec (.edge 1 1300) (mid 0 1000 1000 7 0x55) = .next t ∧ t.tBase = 1000) ∧
      (∃ t, exec (.edge 1 1301) (mid 0 1000 1000 7 0x55) = .next t ∧ t.tBase = 1301) ∧
      (mid 0 1000 1000 7 0x55).phase = .tracking :=
  ⟨⟨_, rfl, by decide⟩, ⟨_, rfl, by decide⟩, rfl⟩

theorem witness_NewLevelOnlyDecidesTheNextEdge : ∃ t, exec (.edge 1 1100) (mid 1 1000 1000 0 0) = .next t := ⟨_, rfl⟩

theorem witness_EdgeLeavesTheRestUnchanged :
    (∃ t, exec (.edge 1 2200) (mid 0 1000 1000 7 0x55) = .next t ∧ t.out.status = some .edgeRecorded) ∧
      (∃ t, exec (.edge 1 1299) (mid 0 1000 1000 7 0x55) = .next t ∧ t.out.status = some .bounceCorrected) ∧
      ∃ t, exec (.edge 0 1400) (mid 1 1000 1000 3 0) = .next t ∧ t.out.status = some .noiseIgnored :=
  ⟨⟨_, rfl, by decide⟩, ⟨_, rfl, by decide⟩, ⟨_, rfl, by decide⟩⟩

theorem witness_OnlyTimeDifferencesMatter :
    (∃ t, exec (.edge 0 1100) (mid 1 1000 1000 0 0) = .next t ∧ laterBy Config.params 4294966200 1100 = 4) ∧
      (16 : Nat) < 2 ^ 32 ∧ 4294967200 < 2 ^ 32 := ⟨⟨_, rfl, by decide⟩, by decide, by decide⟩

/-- The six answers at the ends of their ranges. -/
theorem witness_ClassifierAnswersByTiming :
    classify Config.params .pulseStart 1201 0 = .minuteSync ∧
      classify Config.params .pulseStart 299 0 = .bounce ∧
      classify Config.params .pulseStart 300 0 = .none ∧
      classify Config.params .pulseStart 1200 0 = .none ∧
      classify Config.params .pulseEnd 249 150 = .one ∧
      classify Config.params .pulseEnd 50 149 = .zero ∧
      classify Config.params .pulseEnd 49 150 = .ignore ∧
      classify Config.params .pulseEnd 250 150 = .ignore := by decide

theorem witness_ClassifierAgreesWithTheLiteralOrder : Config.params.tWinHi ≤ Config.params.tBounce := by decide

theorem witness_PulseIsItsTwoEdgeSteps : (mid 0 0 0 3 0).initialised = true := by decide

theorem witness_BitPulsesAppendTheirBit :
    AwaitsPulseStart (mid 0 1000 1000 59 0) ∧ SecondPulses Config.params ∧
      (∀ t : Nat, t = 1301 ∨ t = 2200 →
        Config.params.tDebounce < (mid 0 1000 1000 59 0).elapsed t ∧
          Config.params.tBounce ≤ (mid 0 1000 1000 59 0).elapsed t ∧
          (mid 0 1000 1000 59 0).elapsed t ≤ Config.params.tSync) ∧
      (mid 0 1000 1000 59 0).cursor.toNat < 60 := by
  refine ⟨⟨rfl, rfl, by decide⟩, by unfold SecondPulses; decide, ?_, by decide⟩
  rintro t (rfl | rfl) <;> decide

theorem witness_AppendWritesTheBitAtTheCursor :
    (buf 0 0).cursor.toNat < 60 ∧ (buf 59 0).cursor.toNat < 60 ∧ 60 ≤ (buf 60 0).cursor.toNat := by decide

theorem witness_KthAppendedBitStandsAtPositionK :
    (List.replicate 60 true).length ≤ 60 ∧ State.reset.bits = 0 ∧ State.reset.cursor = 0 := by decide

theorem witness_SixtyFirstBitDiscardsTheTelegram :
    (List.replicate 61 true).length = 61 ∧ State.reset.bits = 0 ∧ State.reset.cursor = 0 := by decide

theorem witness_NormalizeMovesEachBitUpByTheShift :
    (45 : Cursor).toNat ≤ Config.params.normLast + 1 ∧ (60 : Cursor).toNat ≤ Config.params.normLast + 1 ∧
      ¬ (61 : Cursor).toNat ≤ Config.params.normLast + 1 := by decide

/-- V-N4: bit 55 is stale at cursor 50. -/
theorem witness_StaleBitsAreDroppedByNormalize :
    Config.params.normLast = 59 ∧ 0 < (50 : Cursor).toNat ∧ (50 : Cursor).toNat ≤ 60 ∧
      ∀ i, i < (50 : Cursor).toNat →
        (0x82000000000000 : Buffer).getLsbD i = (0x2000000000000 : Buffer).getLsbD i := by decide

theorem witness_OverflowAndShortTelegramsAreDiscarded : (buf 44 telegram).cursor.toNat ≤ Config.params.minCursor := by
  decide

/-- The clauses in order: V-F4, V-F6 (year 0), V-F5 (month 0), V-F1; and the shortest telegram that is checked. -/
theorem witness_LongTelegramIsChecked :
    Config.params.minCursor < (buf 45 0).cursor.toNat ∧
      bufferAfter (.finalize .sync) (buf 60 0x490C43212A20000) = some (.status .parityMismatch, 0, 0) ∧
      bufferAfter (.finalize .sync) (buf 60 0x400C43292A20000) = some (.status .invalidDateFields, 0, 0) ∧
      bufferAfter (.finalize .sync) (buf 60 0x490043292A20000) = some (.status .invalidDateFields, 0, 0) ∧
      bufferAfter (.finalize .sync) (buf 60 telegram) = some (.status .telegramDelivered, 0, 0) := by decide

/-- V-F3: the shortest telegram that is decoded passes every check. -/
theorem witness_PassingTelegramIsDeliveredDecoded :
    ∃ n, n = Machine.normalize Config.params (0x92188652544 : Buffer) 45 ∧ Config.params.minCursor < (45 : Cursor).toNat ∧
      (parityPass n).minute = n.getLsbD 28 ∧ (parityPass n).hour = n.getLsbD 35 ∧ (parityPass n).date = n.getLsbD 58 ∧
      n.toNat / 2 ^ 45 % 2 ^ 5 ≠ 0 ∧ n.toNat / 2 ^ 50 % 2 ^ 8 ≠ 0 := by
  exact ⟨_, rfl, by decide, by decide, by decide, by decide, by decide, by decide⟩

theorem witness_EveryFinalizeEmptiesTheBuffer :
    ∃ t, exec (decode (0x300000899 : CmdWord 32)) (mid 0 1000 1000 7 0x55) = .next t ∧
      t.out.status = some .telegramTooShort ∧
      Status.telegramTooShort.isFinalize = true := ⟨_, rfl, by decide, rfl⟩

theorem witness_BcdIsDecimalOnValidDigits : (0x99 : BitVec 8).toNat = 16 * 9 + 9 ∧ 9 ≤ 9 := by decide

theorem witness_OneFlippedBitSuppressesTheRecord :
    Config.params.normLast ≤ 59 ∧
      ∃ t, exec (.finalize .sync) { State.reset with bits := telegram, cursor := 60 } = .next t ∧
      t.returned = .status .telegramDelivered := ⟨by decide, _, rfl, by decide⟩

/-- Program P1's last edge. -/
theorem witness_DeliveredDatesAreNonZero :
    ∃ t, step ((mid 0 59000 59000 60 telegram).withFetchWord 40 0x30000EE48) = .next t ∧ t.out.recValid = true :=
  ⟨_, rfl, by decide⟩

theorem witness_EachCommandDrivesItsOutputs :
    (∃ t, exec (decode (0x0 : CmdWord 32)) cold = .next t) ∧
      (∃ t, exec (decode (0x400000000 : CmdWord 32)) cold = .next t) ∧
      (∃ t, exec (decode (0x600000000 : CmdWord 32)) (buf 3 0x5) = .next t ∧ t.out.snapValid = true) ∧
      ∃ t, exec (decode (0x30000EE48 : CmdWord 32)) (mid 0 59000 59000 60 telegram) = .next t ∧ t.out.recValid = true :=
  ⟨⟨_, rfl⟩, ⟨_, rfl⟩, ⟨_, rfl, by decide⟩, ⟨_, rfl, by decide⟩⟩

theorem witness_UndrivenPortsAreAtTheirDefaults :
    (∃ t, exec (decode (0x600000000 : CmdWord 32)) (buf 3 0x5) = .next t ∧ t.out.recValid = false) ∧
      ∃ t, exec (decode (0x20000044C : CmdWord 32)) (mid 1 1000 1000 0 0) = .next t ∧ t.out.recValid = false ∧
        t.out.snapValid = false := ⟨⟨_, rfl, by decide⟩, ⟨_, rfl, by decide⟩⟩

theorem inv_full : Inv (mid 0 59000 59000 60 telegram) where
  cursor_le := by decide
  idle_empty := by decide
  finalize_empty := by
    intro c hc hf
    cases hc
    cases hf
  times_fit := by decide

theorem witness_ParametersAreFixedAtTheBuild :
    ∃ t, exec .init { cold with params := { Config.params with W := 12 } } = .next t ∧ t.params.W = 12 := ⟨_, rfl, rfl⟩

theorem witness_EveryStepKeepsTheInvariant :
    Inv (mid 0 59000 59000 60 telegram) ∧
      ∃ t, step ((mid 0 59000 59000 60 telegram).withFetchWord 40 0x30000EE48) = .next t ∧ t.cursor = 0 :=
  ⟨inv_full, _, rfl, by decide⟩

theorem witness_OnlyInitReturnsToIdle :
    (∃ t, exec .init (mid 1 5 6 12 0xFFF) = .next t ∧ t.phase = .idle) ∧
      ∃ t, exec (.edge 1 5000) State.reset = .next t ∧ t.phase = .tracking :=
  ⟨⟨_, rfl, by decide⟩, ⟨_, rfl, by decide⟩⟩

/-- The run finalizes a telegram, so that `pf` is written in it. -/
theorem witness_ParityFlagsNeverReachAnOutput :
    ∃ u outs, observe [0x30000EE48, 0x600000000] (mid 0 59000 59000 60 telegram) = .next (outs, u) ∧ u.pf = 0b101 :=
  ⟨_, _, rfl, by decide⟩

theorem witness_IdleTimingStateIsNeverRead :
    State.reset.phase = .idle ∧
      ∃ u outs, observe [0x600000000, 0x3000003E8, 0x20000044C] State.reset = .next (outs, u) := ⟨rfl, _, _, rfl⟩

theorem witness_OnlyEdgesAndInitChangeRegisters :
    (∀ c ∈ [0x0, 0x7FFFFFFFF], opField (portWord 32 c) = 0b00#2 ∨ opField (portWord 32 c) = 0b11#2) ∧
      ∃ u outs, observe [0x0, 0x7FFFFFFFF] (mid 1 1000 1000 7 0x55) = .next (outs, u) := by
  refine ⟨?_, _, _, rfl⟩
  intro c hc
  rcases List.mem_pair.mp hc with rfl | rfl <;> decide

theorem witness_MinuteOfPulsesIsDecodedOnce : SecondPulses State.reset.params := by
  unfold SecondPulses
  decide

theorem witness_SnapAfterFinalizeReadsZero :
    ∃ t, exec (.edge 1 61000) (mid 0 59000 59000 60 telegram) = .next t ∧ t.out.status = some .telegramDelivered ∧
      Status.telegramDelivered.isFinalize = true := ⟨_, rfl, by decide, rfl⟩

end Sys2Proof.Tests
end

namespace Sys2Proof.Machine

/-! ## Elapsed times: the difference, and its invariance under a common shift (R10) -/

/-- The modulus as one natural number, the form `omega` takes. -/
theorem delta_natCast (w a b : Nat) : delta w a b = (((a : Int) - b) % (2 ^ w : Nat)).toNat := by
  rw [delta]
  push_cast
  rfl

theorem delta_of_le {w a b : Nat} (ha : a < 2 ^ w) (h : b ≤ a) : delta w a b = a - b := by
  rw [delta_natCast, Int.emod_eq_of_lt (by omega) (by omega)]
  omega

/-- Across the wrap the difference is negative, and one turn of `2^w` brings it back in range. -/
theorem delta_of_lt {w a b : Nat} (hb : b < 2 ^ w) (h : a < b) : delta w a b = 2 ^ w + a - b := by
  rw [delta_natCast, ← Int.add_emod_right, Int.emod_eq_of_lt (by omega) (by omega)]
  omega

theorem delta_laterBy (p : Config.Params) (d a b : Nat) :
    delta p.W (laterBy p d a) (laterBy p d b) = delta p.W a b := by
  have hshift : ((a : Int) + d - (b + d)) = a - b := by omega
  rw [delta, laterBy, laterBy]
  push_cast
  rw [Int.emod_sub_emod, Int.sub_emod_emod, hshift, delta]

/-! ## EDGE commutes with a common shift of the timestamps

`elapsed`, `plen` and so the outcome are the same after the shift; the outcome's effect reads no timestamp; and the timing
writes put the shifted time where they put the time. -/

@[simp] theorem State.elapsed_shiftTime (s : State) (d ts : Nat) :
    (s.shiftTime d).elapsed (laterBy s.params d ts) = s.elapsed ts :=
  delta_laterBy s.params d ts s.tBase

@[simp] theorem State.plen_shiftTime (s : State) (d ts : Nat) :
    (s.shiftTime d).plen (laterBy s.params d ts) = s.plen ts :=
  delta_laterBy s.params d ts s.tPulse

@[simp] theorem State.nextKind_shiftTime (s : State) (d : Nat) : (s.shiftTime d).nextKind = s.nextKind := rfl

@[simp] theorem State.outcomeAt_shiftTime (s : State) (d ts : Nat) :
    (s.shiftTime d).outcomeAt (laterBy s.params d ts) = s.outcomeAt ts := by
  simp [State.outcomeAt]

theorem State.decodeTelegram_shiftTime (s : State) (d : Nat) (n : Buffer) :
    (s.shiftTime d).decodeTelegram n = (s.decodeTelegram n).shiftTime d := by
  by_cases hv : verdict n = .telegramDelivered
  · rw [State.decodeTelegram_delivered hv, State.decodeTelegram_delivered hv]
    rfl
  · rw [State.decodeTelegram_discarded hv, State.decodeTelegram_discarded hv]
    rfl

theorem finalize_sync_shiftTime (s : State) (d : Nat) :
    finalize .sync (s.shiftTime d) = ((finalize .sync s).1.shiftTime d, (finalize .sync s).2) := by
  rcases Nat.lt_or_ge s.params.minCursor s.cursor.toNat with h | h
  · rw [finalize_long h, finalize_long (by simpa using h), State.decodeTelegram_shiftTime]
    rfl
  · rw [finalize_short h, finalize_short (by simpa using h)]
    rfl

theorem append_shiftTime (b : Bool) (s : State) (d : Nat) :
    append b (s.shiftTime d) = ((append b s).1.shiftTime d, (append b s).2) := by
  rcases Nat.lt_or_ge s.cursor.toNat 60 with h | h
  · rw [append_room b h, append_room b (by simpa using h)]
    rfl
  · rw [append_full b h, append_full b (by simpa using h)]
    rfl

theorem applyOutcome_shiftTime (o : EdgeOutcome) (s : State) (d : Nat) :
    applyOutcome o (s.shiftTime d) = ((applyOutcome o s).1.shiftTime d, (applyOutcome o s).2) := by
  cases o with
  | minuteSync => exact finalize_sync_shiftTime s d
  | bounce => rfl
  | none => rfl
  | one => exact append_shiftTime true s d
  | zero => exact append_shiftTime false s d
  | ignore => rfl

@[simp] theorem applyOutcome_params (o : EdgeOutcome) (s : State) : (applyOutcome o s).1.params = s.params := by
  obtain ⟨_, _, _, _, e, -⟩ := applyOutcome_frame o s
  rw [e]

theorem State.driveStatus_shiftTime (s : State) (d : Nat) (c : Status) :
    (s.shiftTime d).driveStatus c = (s.driveStatus c).shiftTime d := rfl

theorem State.moveTiming_shiftTime {s : State} {p : Config.Params} (hp : s.params = p) (d : Nat) (k : EdgeKind) (e : Nat)
    (lv : Level) (ts : Nat) :
    (s.shiftTime d).moveTiming p k e lv (laterBy p d ts) = (s.moveTiming p k e lv ts).shiftTime d := by
  subst hp
  simp only [State.moveTiming, State.shiftTime, apply_ite (laterBy s.params d)]

theorem trackingEdge_shiftTime (lv : Level) (ts : Nat) (s : State) (d : Nat) :
    trackingEdge lv (laterBy s.params d ts) (s.shiftTime d) = (trackingEdge lv ts s).shiftTime d := by
  simp only [trackingEdge, State.outcomeAt_shiftTime, applyOutcome_shiftTime, State.nextKind_shiftTime,
    State.elapsed_shiftTime, State.shiftTime_params, State.driveStatus_shiftTime]
  refine State.moveTiming_shiftTime ?_ d _ _ lv ts
  rw [State.driveStatus_params, applyOutcome_params]

theorem edgeStep_shiftTime (lv : Level) (ts : Nat) (s : State) (d : Nat) :
    edgeStep lv (laterBy s.params d ts) (s.shiftTime d) = (edgeStep lv ts s).shiftTime d := by
  rcases phase_cases s with h | h
  · rw [edgeStep_idle h, edgeStep_idle (by simpa using h)]
    rfl
  · rw [edgeStep_tracking h, edgeStep_tracking (by simpa using h)]
    exact trackingEdge_shiftTime lv ts s.beginStep d

/-- Settles O28: the difference by the two sides of the wrap, the shift by EDGE commuting with it. -/
theorem onlyTimeDifferencesMatter : Obligations.OnlyTimeDifferencesMatter := by
  refine ⟨fun w a b ha hb => ?_, fun d lv ts s t h => ?_⟩
  · split
    · next hle => exact delta_of_le ha hle
    · next hlt => exact delta_of_lt hb (Nat.not_le.mp hlt)
  · obtain ⟨hi, rfl⟩ := exec_edge_next h
    rw [exec_edge (by simpa using hi), edgeStep_shiftTime]

/-! ## No instruction and no step writes the parameters (R30) -/

@[simp] theorem finalize_params (r : FinalizeReason) (s : State) : (finalize r s).1.params = s.params := by
  obtain ⟨_, _, e, -⟩ := finalize_frame r s
  rw [e]

@[simp] theorem append_params (b : Bool) (s : State) : (append b s).1.params = s.params := by
  rcases append_cases b s with ⟨-, e⟩ | ⟨-, e⟩
  · rw [e]
  · rw [e]; rfl

theorem pulse_params {s u : State} {t w : Nat} (h : pulse t w s = .next u) : u.params = s.params := by
  cases hi : s.initialised with
  | true =>
    rw [pulse_next hi] at h
    injection h with h
    simp [← h]
  | false => rw [pulse_fault hi] at h; cases h

theorem exec_params {i : Instr} {s t : State} (h : exec i s = .next t) : t.params = s.params := by
  cases i with
  | nop => cases h; rfl
  | edge lv ts => obtain ⟨-, rfl⟩ := exec_edge_next h; exact edgeStep_params lv ts s
  | init => cases h; rfl
  | snap => obtain ⟨-, rfl⟩ := exec_snap_next h; rfl
  | classify k e l => cases h; rfl
  | append b => cases h; exact append_params b s
  | retreat => cases h; rfl
  | normalize bits cursor => cases h; rfl
  | reset => cases h; rfl
  | finalize r => cases h; exact finalize_params r s
  | bcd w r => cases h; rfl
  | parity n => cases h; rfl
  | pulse t w => exact pulse_params h
  | bit0 t => exact pulse_params h
  | bit1 t => exact pulse_params h

theorem step_params {s t : State} (h : step s = .next t) : t.params = s.params := by
  cases hc : s.cmds with
  | nil => rw [step_nil hc] at h; cases h; rfl
  | cons c rest => rw [step_cons hc] at h; exact (exec_params h).trans rfl

theorem advance_params (s : State) : (advance s).params = s.params := by
  rw [advance]
  split
  · next t h => exact step_params h
  · rfl
  · rfl

theorem iterate_advance_params (n : Nat) (s : State) : (Nat.iterate advance n s).params = s.params := by
  induction n generalizing s with
  | zero => rfl
  | succ n ih => exact (ih (advance s)).trans (advance_params s)

/-- Settles O52: each instruction keeps the parameters, so each step, past a fault or not, does. -/
theorem parametersAreFixedAtTheBuild : Obligations.ParametersAreFixedAtTheBuild :=
  ⟨rfl, by decide, rfl, fun _ => ⟨rfl, rfl⟩, fun _ _ _ h => exec_params h, iterate_advance_params⟩

end Sys2Proof.Machine

namespace Sys2Proof.Machine

/-! ## What an edge's outcome does to the buffer, the status and the ports -/

@[simp] theorem applyOutcome_initialised (o : EdgeOutcome) (s : State) :
    (applyOutcome o s).1.initialised = s.initialised := by
  obtain ⟨_, _, _, _, e, -⟩ := applyOutcome_frame o s
  rw [e]

@[simp] theorem applyOutcome_phase (o : EdgeOutcome) (s : State) : (applyOutcome o s).1.phase = s.phase := by
  obtain ⟨_, _, _, _, e, -⟩ := applyOutcome_frame o s
  rw [e]

@[simp] theorem applyOutcome_tBase (o : EdgeOutcome) (s : State) : (applyOutcome o s).1.tBase = s.tBase := by
  obtain ⟨_, _, _, _, e, -⟩ := applyOutcome_frame o s
  rw [e]

@[simp] theorem applyOutcome_tPulse (o : EdgeOutcome) (s : State) : (applyOutcome o s).1.tPulse = s.tPulse := by
  obtain ⟨_, _, _, _, e, -⟩ := applyOutcome_frame o s
  rw [e]

/-- R22: an append takes the cursor up to 60 at most, and past that it empties the buffer. -/
theorem append_cursor_le (b : Bool) (s : State) : (append b s).1.cursor.toNat ≤ 60 := by
  rcases append_cases b s with ⟨h, e⟩ | ⟨-, e⟩
  · rw [e, cursor_succ_toNat h]
    omega
  · simp [e]

theorem append_finalize_empty {b : Bool} {s : State} (h : (append b s).2.isFinalize = true) :
    (append b s).1.bits = 0 ∧ (append b s).1.cursor = 0 := by
  rcases append_cases b s with ⟨-, e⟩ | ⟨-, e⟩
  · rw [e] at h
    cases h
  · simp [e]

theorem applyOutcome_cursor_le (o : EdgeOutcome) {s : State} (h : s.cursor.toNat ≤ 60) :
    (applyOutcome o s).1.cursor.toNat ≤ 60 := by
  cases o with
  | minuteSync => simp [applyOutcome]
  | bounce => exact (retreat_cursor_toNat s).trans_le (by omega)
  | none => exact h
  | one => exact append_cursor_le true s
  | zero => exact append_cursor_le false s
  | ignore => exact h

/-- R129: an outcome whose status is a finalize's leaves the buffer empty. -/
theorem applyOutcome_finalize_empty {o : EdgeOutcome} {s : State} (h : (applyOutcome o s).2.isFinalize = true) :
    (applyOutcome o s).1.bits = 0 ∧ (applyOutcome o s).1.cursor = 0 := by
  cases o with
  | minuteSync => exact ⟨finalize_bits .sync s, finalize_cursor .sync s⟩
  | bounce => cases h
  | none => cases h
  | one => exact append_finalize_empty h
  | zero => exact append_finalize_empty h
  | ignore => cases h

/-! ## The invariant of R31 -/

/-- Settles O53: the reset state's cursor, buffer and timestamps are 0, and its status is no finalize's. -/
theorem invariantHoldsAtReset : Obligations.InvariantHoldsAtReset := fun p =>
  { cursor_le := fun _ => Nat.zero_le 60
    idle_empty := fun _ _ => ⟨rfl, rfl⟩
    finalize_empty := fun _ _ _ => ⟨rfl, rfl⟩
    times_fit := ⟨Nat.two_pow_pos p.W, Nat.two_pow_pos p.W⟩ }

theorem Inv.setCmds {s : State} (h : Inv s) (cs : List Nat) : Inv { s with cmds := cs } :=
  ⟨h.cursor_le, h.idle_empty, h.finalize_empty, h.times_fit⟩

theorem Inv.beginStep {s : State} (h : Inv s) : Inv s.beginStep where
  cursor_le := h.cursor_le
  idle_empty := h.idle_empty
  finalize_empty := by simp [Outputs.defaults]
  times_fit := h.times_fit

theorem Inv.driveStatus {s : State} {c : Status} (h : Inv s) (hc : c.isFinalize = true → s.bits = 0 ∧ s.cursor = 0) :
    Inv (s.driveStatus c) where
  cursor_le := h.cursor_le
  idle_empty := h.idle_empty
  finalize_empty k hk hf := by
    cases hk
    exact hc hf
  times_fit := h.times_fit

theorem Inv.showSnapshot {s : State} (h : Inv s) : Inv s.showSnapshot :=
  ⟨h.cursor_le, h.idle_empty, h.finalize_empty, h.times_fit⟩

theorem inv_initialise (s : State) : Inv s.initialise where
  cursor_le _ := Nat.zero_le 60
  idle_empty _ _ := ⟨rfl, rfl⟩
  finalize_empty _ _ _ := ⟨rfl, rfl⟩
  times_fit := ⟨Nat.two_pow_pos _, Nat.two_pow_pos _⟩

theorem Inv.firstEdge {s : State} (h : Inv s) (lv : Level) {ts : Nat} (hts : ts < 2 ^ s.params.W) :
    Inv (firstEdge lv ts s) where
  cursor_le := h.cursor_le
  idle_empty _ hp := by cases hp
  finalize_empty c hc hf := by
    cases hc
    cases hf
  times_fit := ⟨hts, hts⟩

/-- The timing writes take a register either to the edge's time or nowhere, so both still fit. -/
theorem Inv.trackingEdge {s : State} (h : Inv s) (hp : s.phase = .tracking) (lv : Level) {ts : Nat}
    (hts : ts < 2 ^ s.params.W) : Inv (trackingEdge lv ts s) where
  cursor_le hi := applyOutcome_cursor_le _ (h.cursor_le (by simpa [Machine.trackingEdge] using hi))
  idle_empty _ hidle := by simp [Machine.trackingEdge, hp] at hidle
  finalize_empty c hc hf := by
    cases hc
    exact applyOutcome_finalize_empty hf
  times_fit := by
    obtain ⟨hbase, hpulse⟩ := h.times_fit
    simp only [Machine.trackingEdge, State.moveTiming_tBase, State.moveTiming_tPulse, State.moveTiming_params,
      State.driveStatus_tBase, State.driveStatus_tPulse, State.driveStatus_params, applyOutcome_tBase,
      applyOutcome_tPulse, applyOutcome_params]
    constructor
    · split
      · exact hts
      · exact hbase
    · split
      · exact hts
      · exact hpulse

theorem Inv.edgeStep {s : State} (h : Inv s) (lv : Level) {ts : Nat} (hts : ts < 2 ^ s.params.W) :
    Inv (edgeStep lv ts s) := by
  rcases phase_cases s with hp | hp
  · rw [edgeStep_idle hp]
    exact h.beginStep.firstEdge lv hts
  · rw [edgeStep_tracking hp]
    exact h.beginStep.trackingEdge hp lv hts

/-- R60, R62: the time of a decoded EDGE is a `W`-bit number. -/
theorem decode_edge_time_lt {w : Nat} {c : CmdWord w} {lv : Level} {ts : Nat} (h : decode c = .edge lv ts) :
    ts < 2 ^ w := by
  have hwf := decode_wellFormed { Config.params with W := w } c
  rw [h] at hwf
  exact of_decide_eq_true hwf

theorem Inv.exec_decode {s t : State} {c : CmdWord s.params.W} (h : Inv s) (ht : exec (decode c) s = .next t) :
    Inv t := by
  have hc := decode_cases c
  generalize hd : decode c = i at hc ht
  rcases hc with rfl | ⟨lv, ts, rfl⟩ | rfl | rfl
  · cases ht
    exact h.beginStep.driveStatus nofun
  · obtain ⟨-, rfl⟩ := exec_edge_next ht
    exact h.edgeStep lv (decode_edge_time_lt hd)
  · cases ht
    exact (inv_initialise _).driveStatus nofun
  · obtain ⟨-, rfl⟩ := exec_snap_next ht
    exact h.beginStep.showSnapshot.driveStatus nofun

/-- Settles O54: an idle step only clears the ports, and every decoded command keeps the invariant. -/
theorem everyStepKeepsTheInvariant : Obligations.EveryStepKeepsTheInvariant := by
  intro s t h ht
  cases hc : s.cmds with
  | nil =>
    rw [step_nil hc] at ht
    cases ht
    exact h.beginStep
  | cons c rest =>
    rw [step_cons hc] at ht
    exact (h.setCmds rest).exec_decode ht

/-! ## Simulations: relations of states that a run cannot tell apart -/

/-- Related states are of one build, and every host command drives the same outputs in both and keeps them related. -/
structure CommandSimulation (R : State → State → Prop) : Prop where
  params_eq : ∀ {s s' : State}, R s s' → s'.params = s.params
  exec_related : ∀ {w : Nat} (c : CmdWord w) {s s' t : State}, R s s' → exec (decode c) s = .next t →
    ∃ t', exec (decode c) s' = .next t' ∧ R t t' ∧ t'.out = t.out

theorem CommandSimulation.observe_related {R : State → State → Prop} (hR : CommandSimulation R) {cs : List Nat}
    {s s' u : State} {outs : List Outputs} (h : R s s') (hu : observe cs s = .next (outs, u)) :
    ∃ u', observe cs s' = .next (outs, u') ∧ R u u' := by
  induction cs generalizing s s' outs with
  | nil =>
    cases hu
    exact ⟨s', rfl, h⟩
  | cons c cs ih =>
    obtain ⟨t, rest, ht, hrest, rfl⟩ := observe_cons_next hu
    obtain ⟨t', ht', hrel, hout⟩ := hR.exec_related _ h ht
    obtain ⟨u', hu', hru⟩ := ih hrel hrest
    refine ⟨u', ?_, hru⟩
    rw [← hout]
    exact observe_cons (by rw [hR.params_eq h]; exact ht') hu'

/-! ## The parity flags are written and never read (R27, R145) -/

/-- The two states differ in `pf` at most. -/
def SameButPf (s s' : State) : Prop := ∃ x, s' = { s with pf := x }

/-- The decode path overwrites `pf`. -/
theorem decodeTelegram_pf (s : State) (x : BitVec 3) (n : Buffer) :
    State.decodeTelegram { s with pf := x } n = s.decodeTelegram n := rfl

theorem finalize_sync_pf (s : State) (x : BitVec 3) :
    ∃ y, finalize .sync { s with pf := x } = ({ (finalize .sync s).1 with pf := y }, (finalize .sync s).2) := by
  rcases Nat.lt_or_ge s.params.minCursor s.cursor.toNat with h | h
  · rw [finalize_long h, finalize_long (s := { s with pf := x }) h, decodeTelegram_pf]
    exact ⟨_, rfl⟩
  · rw [finalize_short h, finalize_short (s := { s with pf := x }) h]
    exact ⟨x, rfl⟩

theorem append_pf (b : Bool) (s : State) (x : BitVec 3) :
    append b { s with pf := x } = ({ (append b s).1 with pf := x }, (append b s).2) := by
  rcases Nat.lt_or_ge s.cursor.toNat 60 with h | h
  · rw [append_room b h, append_room (s := { s with pf := x }) b h]
  · rw [append_full b h, append_full (s := { s with pf := x }) b h]
    rfl

theorem applyOutcome_pf (o : EdgeOutcome) (s : State) (x : BitVec 3) :
    ∃ y, applyOutcome o { s with pf := x } = ({ (applyOutcome o s).1 with pf := y }, (applyOutcome o s).2) := by
  cases o with
  | minuteSync => exact finalize_sync_pf s x
  | bounce => exact ⟨x, rfl⟩
  | none => exact ⟨x, rfl⟩
  | one => exact ⟨x, append_pf true s x⟩
  | zero => exact ⟨x, append_pf false s x⟩
  | ignore => exact ⟨x, rfl⟩

theorem edgeStep_pf (lv : Level) (ts : Nat) (s : State) (x : BitVec 3) :
    ∃ y, edgeStep lv ts { s with pf := x } = { edgeStep lv ts s with pf := y } := by
  rcases phase_cases s with h | h
  · rw [edgeStep_idle h, edgeStep_idle (s := { s with pf := x }) h]
    exact ⟨x, rfl⟩
  · obtain ⟨y, hy⟩ := applyOutcome_pf (s.outcomeAt ts) s.beginStep x
    refine ⟨y, ?_⟩
    rw [edgeStep_outcome h lv ts rfl, edgeStep_outcome (s := { s with pf := x }) (o := s.outcomeAt ts) h lv ts rfl,
      show State.beginStep { s with pf := x } = { s.beginStep with pf := x } from rfl, hy]
    rfl

theorem sameButPf_simulation : CommandSimulation SameButPf where
  params_eq := by
    rintro s _ ⟨x, rfl⟩
    rfl
  exec_related := by
    rintro w c s _ t ⟨x, rfl⟩ ht
    have hc := decode_cases c
    generalize decode c = i at hc ht ⊢
    rcases hc with rfl | ⟨lv, ts, rfl⟩ | rfl | rfl
    · cases ht
      exact ⟨_, rfl, ⟨x, rfl⟩, rfl⟩
    · obtain ⟨hi, rfl⟩ := exec_edge_next ht
      obtain ⟨y, hy⟩ := edgeStep_pf lv ts s x
      exact ⟨_, exec_edge (s := { s with pf := x }) hi lv ts, ⟨y, hy⟩, by rw [hy]⟩
    · cases ht
      exact ⟨_, rfl, ⟨0, rfl⟩, rfl⟩
    · obtain ⟨hi, rfl⟩ := exec_snap_next ht
      exact ⟨_, exec_snap hi, ⟨x, rfl⟩, rfl⟩

/-- Settles O56: "the same but for `pf`" is kept by every command, and only a finalize writes `pf`. -/
theorem parityFlagsNeverReachAnOutput : Obligations.ParityFlagsNeverReachAnOutput := by
  intro cs s u x outs hu
  obtain ⟨_, hu', y, rfl⟩ := sameButPf_simulation.observe_related ⟨x, rfl⟩ hu
  exact ⟨y, hu'⟩

/-! ## An IDLE CORE's timing state is overwritten before it is read (R24, R83) -/

/-- The two states are equal, or both IDLE and differ in the level and the two timestamps at most. -/
def SameButIdleTiming (s s' : State) : Prop :=
  s' = s ∨ (s.phase = .idle ∧ ∃ l b q, s' = { s with prevLevel := l, tBase := b, tPulse := q })

/-- The first edge writes all three registers (R83). -/
theorem edgeStep_idle_timing {s : State} (h : s.phase = .idle) (lv : Level) (ts : Nat) (l : Level) (b q : Nat) :
    edgeStep lv ts { s with prevLevel := l, tBase := b, tPulse := q } = edgeStep lv ts s := by
  rw [edgeStep_idle h, edgeStep_idle (s := { s with prevLevel := l, tBase := b, tPulse := q }) h]
  rfl

theorem sameButIdleTiming_simulation : CommandSimulation SameButIdleTiming where
  params_eq := by
    rintro s _ (rfl | ⟨-, l, b, q, rfl⟩)
    · rfl
    · rfl
  exec_related := by
    rintro w c s _ t (rfl | ⟨hidle, l, b, q, rfl⟩) ht
    · exact ⟨t, ht, .inl rfl, rfl⟩
    have hc := decode_cases c
    generalize decode c = i at hc ht ⊢
    rcases hc with rfl | ⟨lv, ts, rfl⟩ | rfl | rfl
    · cases ht
      exact ⟨_, rfl, .inr ⟨hidle, l, b, q, rfl⟩, rfl⟩
    · obtain ⟨hi, rfl⟩ := exec_edge_next ht
      have he := edgeStep_idle_timing hidle lv ts l b q
      exact ⟨_, exec_edge (s := { s with prevLevel := l, tBase := b, tPulse := q }) hi lv ts, .inl he,
        congrArg State.out he⟩
    · cases ht
      exact ⟨_, rfl, .inl rfl, rfl⟩
    · obtain ⟨hi, rfl⟩ := exec_snap_next ht
      exact ⟨_, exec_snap hi, .inr ⟨hidle, l, b, q, rfl⟩, rfl⟩

/-- Settles O57: NOP and SNAP keep an IDLE pair so, and EDGE and INIT make the two states equal. -/
theorem idleTimingStateIsNeverRead : Obligations.IdleTimingStateIsNeverRead := by
  intro cs s u l b q outs hidle hu
  obtain ⟨u', hu', -⟩ := sameButIdleTiming_simulation.observe_related (.inr ⟨hidle, l, b, q, rfl⟩) hu
  exact ⟨u', hu'⟩

/-! ## The ports of a command's step (R36) -/

/-- R128: finalize drives the record ports exactly when it delivers. -/
theorem finalize_out (r : FinalizeReason) (s : State) :
    ((finalize r s).2 ≠ .telegramDelivered ∧ (finalize r s).1.out = s.out) ∨
      ((finalize r s).2 = .telegramDelivered ∧
        ∃ rec, (finalize r s).1.out = { s.out with recValid := true, record := rec }) := by
  rcases finalize_cases r s with ⟨_, h⟩ | ⟨_, _, h⟩ | ⟨_, _, n, _, hv, h⟩ | ⟨_, _, n, _, _, h⟩
  · rw [h]; exact .inl ⟨nofun, rfl⟩
  · rw [h]; exact .inl ⟨nofun, rfl⟩
  · rw [h]; exact .inl ⟨hv, rfl⟩
  · rw [h]; exact .inr ⟨rfl, _, rfl⟩

theorem append_out (b : Bool) (s : State) :
    (append b s).2 ≠ .telegramDelivered ∧ (append b s).1.out = s.out := by
  rcases append_cases b s with ⟨-, e⟩ | ⟨-, e⟩
  · rw [e]; exact ⟨nofun, rfl⟩
  · rw [e]; exact ⟨nofun, rfl⟩

theorem applyOutcome_out (o : EdgeOutcome) (s : State) :
    ((applyOutcome o s).2 ≠ .telegramDelivered ∧ (applyOutcome o s).1.out = s.out) ∨
      ((applyOutcome o s).2 = .telegramDelivered ∧
        ∃ rec, (applyOutcome o s).1.out = { s.out with recValid := true, record := rec }) := by
  cases o with
  | minuteSync => exact finalize_out .sync s
  | bounce => exact .inl ⟨nofun, rfl⟩
  | none => exact .inl ⟨nofun, rfl⟩
  | one => exact .inl (append_out true s)
  | zero => exact .inl (append_out false s)
  | ignore => exact .inl ⟨nofun, rfl⟩

/-- R157: EDGE drives a status alone, or delivers a record with its one code. -/
theorem edgeStep_out (lv : Level) (ts : Nat) (s : State) :
    (∃ k, k ≠ .telegramDelivered ∧ (edgeStep lv ts s).out = Outputs.only k) ∨
      ∃ rec, (edgeStep lv ts s).out = ⟨some .telegramDelivered, true, rec, false, 0⟩ := by
  rcases phase_cases s with h | h
  · rw [edgeStep_idle h]
    exact .inl ⟨.edgeRecorded, nofun, rfl⟩
  · rw [edgeStep_outcome h lv ts rfl, State.moveTiming_out, State.driveStatus_out]
    rcases applyOutcome_out (s.outcomeAt ts) s.beginStep with ⟨hk, ho⟩ | ⟨hk, rec, ho⟩
    · rw [ho]
      exact .inl ⟨_, hk, rfl⟩
    · rw [ho, hk]
      exact .inr ⟨rec, rfl⟩

/-- The ports in a command's step: its status alone, a delivered record, or the snapshot. -/
theorem exec_decode_out {w : Nat} {c : CmdWord w} {s t : State} (h : exec (decode c) s = .next t) :
    (∃ k, t.out = Outputs.only k) ∨ (∃ rec, t.out = ⟨some .telegramDelivered, true, rec, false, 0⟩) ∨
      t.out = ⟨some .snapshotRead, false, Record.zero, true, s.bits⟩ := by
  have hc := decode_cases c
  generalize decode c = i at hc h
  rcases hc with rfl | ⟨lv, ts, rfl⟩ | rfl | rfl
  · cases h
    exact .inl ⟨.nopDone, rfl⟩
  · obtain ⟨-, rfl⟩ := exec_edge_next h
    rcases edgeStep_out lv ts s with ⟨k, -, ho⟩ | ho
    · exact .inl ⟨k, ho⟩
    · exact .inr (.inl ho)
  · cases h
    exact .inl ⟨.initDone, rfl⟩
  · obtain ⟨-, rfl⟩ := exec_snap_next h
    exact .inr (.inr rfl)

/-- R36: every command begins by clearing the ports and the result field, so it cannot read them. -/
theorem exec_decode_ports {w : Nat} (c : CmdWord w) (s : State) (o : Outputs) (r : Returned) :
    exec (decode c) { s with out := o, returned := r } = exec (decode c) s := by
  rcases decode_cases c with hd | ⟨lv, ts, hd⟩ | hd | hd
  · rw [hd]; rfl
  · rw [hd]; rfl
  · rw [hd]; rfl
  · rw [hd]; rfl

/-- Settles O51: the three shapes of a command's ports, and their independence of the ports before. -/
theorem undrivenPortsAreAtTheirDefaults : Obligations.UndrivenPortsAreAtTheirDefaults := by
  refine ⟨fun w c s t h => ?_, fun w c s o r => exec_decode_ports c s o r⟩
  rcases exec_decode_out h with ⟨k, ho⟩ | ⟨rec, ho⟩ | ho
  · simp [ho, Outputs.only, Outputs.defaults]
  · simp [ho]
  · simp [ho]

/-! ## The phase (R23) -/

/-- EDGE and the pseudo-instructions that expand to EDGE commands (R71). -/
def MadeOfEdges (i : Instr) : Prop :=
  (∃ lv ts, i = .edge lv ts) ∨ (∃ x w, i = .pulse x w) ∨ (∃ x, i = .bit0 x) ∨ ∃ x, i = .bit1 x

@[simp] theorem edgeStep_phase (lv : Level) (ts : Nat) (s : State) : (edgeStep lv ts s).phase = .tracking := by
  obtain ⟨_, _, _, _, _, _, e⟩ := edgeStep_frame lv ts s
  rw [e]

theorem finalize_phase (r : FinalizeReason) (s : State) : (finalize r s).1.phase = s.phase := by
  obtain ⟨_, _, e, -⟩ := finalize_frame r s
  rw [e]

theorem append_phase (b : Bool) (s : State) : (append b s).1.phase = s.phase := by
  rcases append_cases b s with ⟨-, e⟩ | ⟨-, e⟩
  · rw [e]
  · rw [e]; rfl

theorem pulse_phase {s u : State} {t w : Nat} (h : pulse t w s = .next u) : u.phase = .tracking := by
  cases hi : s.initialised with
  | true =>
    rw [pulse_next hi] at h
    cases h
    exact edgeStep_phase _ _ _
  | false => rw [pulse_fault hi] at h; cases h

/-- What each instruction does to the phase: INIT makes it IDLE, edges make it TRACKING, the others keep it. -/
theorem exec_phase {i : Instr} {s t : State} (h : exec i s = .next t) :
    (i = .init ∧ t.phase = .idle) ∨ (MadeOfEdges i ∧ t.phase = .tracking) ∨ t.phase = s.phase := by
  cases i with
  | nop => cases h; exact .inr (.inr rfl)
  | edge lv ts =>
    obtain ⟨-, rfl⟩ := exec_edge_next h
    exact .inr (.inl ⟨.inl ⟨lv, ts, rfl⟩, edgeStep_phase lv ts s⟩)
  | init => cases h; exact .inl ⟨rfl, rfl⟩
  | snap => obtain ⟨-, rfl⟩ := exec_snap_next h; exact .inr (.inr rfl)
  | classify k e l => cases h; exact .inr (.inr rfl)
  | append b => cases h; exact .inr (.inr (append_phase b s))
  | retreat => cases h; exact .inr (.inr rfl)
  | normalize bits cursor => cases h; exact .inr (.inr rfl)
  | reset => cases h; exact .inr (.inr rfl)
  | finalize r => cases h; exact .inr (.inr (finalize_phase r s))
  | bcd w r => cases h; exact .inr (.inr rfl)
  | parity n => cases h; exact .inr (.inr rfl)
  | pulse x w => exact .inr (.inl ⟨.inr (.inl ⟨x, w, rfl⟩), pulse_phase h⟩)
  | bit0 x => exact .inr (.inl ⟨.inr (.inr (.inl ⟨x, rfl⟩)), pulse_phase h⟩)
  | bit1 x => exact .inr (.inl ⟨.inr (.inr (.inr ⟨x, rfl⟩)), pulse_phase h⟩)

/-- Settles O55: from what each instruction does to the phase. -/
theorem onlyInitReturnsToIdle : Obligations.OnlyInitReturnsToIdle := by
  refine ⟨fun s => ⟨_, exec_init s, rfl⟩, fun lv ts s t h => ?_, fun i s t h => ?_⟩
  · obtain ⟨-, rfl⟩ := exec_edge_next h
    exact edgeStep_phase lv ts s
  · rcases exec_phase h with ⟨hi, ht⟩ | ⟨hi, ht⟩ | ht
    · exact ⟨fun _ _ => hi, by simp [ht]⟩
    · exact ⟨by simp [ht], fun _ _ => hi⟩
    · rw [ht]
      exact ⟨fun hs hs' => by simp [hs] at hs', fun hs hs' => by simp [hs] at hs'⟩

/-! ## Presented words, and power-on -/

/-- A table word is a word of the default port, which is 32 + 3 bits wide (R61). -/
theorem decodeTableWord_of_ok {w n : Nat} {i : Instr} (nbits : Nat) (hw : w = 32) (h : decodeNat w n = .ok i) :
    decodeTableWord nbits n = some i := by
  subst hw
  have hdefault : decodeNat Config.params.W n = .ok i := h
  simp [decodeTableWord, hdefault]

/-- Settles O9: the presented word is the head of the queue, which the step takes off again. -/
theorem presentedWordIsPerformed : Obligations.PresentedWordIsPerformed := by
  intro s nbits n
  refine ⟨fun hn => ?_, decodeNat_of_ge⟩
  have hd := decodeNat_of_lt hn
  exact ⟨_, hd, step_cons (State.withFetchWord_cmds s nbits n), fun hw => decodeTableWord_of_ok nbits hw hd⟩

/-- Settles O17: INIT overwrites every register, and EDGE and SNAP find no INIT before them. -/
theorem powerOnThenInitIsReset : Obligations.PowerOnThenInitIsReset := fun p =>
  ⟨exec_init (State.powerOn p), exec_nop (State.powerOn p), fun lv ts => exec_edge_fault rfl lv ts, exec_snap_fault rfl⟩

end Sys2Proof.Machine

namespace Sys2Proof.Machine

/-! ## Bits appended one after another (R51) -/

/-- The buffer holds exactly the bits `us`, the first at position 0 and 0 above the last, with the cursor after them. -/
def BufferHolds (us : List Bool) (b : Buffer) (c : Cursor) : Prop :=
  c.toNat = us.length ∧ ∀ k, k < 60 → b.getLsbD k = us.getD k false

theorem bufferHolds_nil : BufferHolds [] 0 0 := ⟨rfl, fun _ _ => by simp⟩

/-- R51: the bit written at the cursor comes to stand after the bits held. -/
theorem BufferHolds.setBit {us : List Bool} {b : Buffer} {c : Cursor} (h : BufferHolds us b c) (hc : c.toNat < 60)
    (v : Bool) : BufferHolds (us ++ [v]) (setBit b c v) (c + 1) := by
  obtain ⟨hlen, hbits⟩ := h
  refine ⟨by rw [cursor_succ_toNat hc, hlen, List.length_append, List.length_singleton], fun k hk => ?_⟩
  rw [setBit_getLsbD b c v k hk, hbits k hk, hlen]
  rcases Nat.lt_trichotomy k us.length with hlt | rfl | hgt
  · rw [List.getD_append _ _ _ _ hlt]
    simp [hlt.ne]
  · simp
  · rw [List.getD_eq_default _ _ hgt.le, List.getD_eq_default _ _ (by simpa using hgt)]
    simp [hgt.ne']

theorem exec_append_room {s : State} (v : Bool) (h : s.cursor.toNat < 60) :
    exec (.append v) s =
      .next { s with bits := setBit s.bits s.cursor v, cursor := s.cursor + 1, returned := .status .bitAppended } := by
  rw [exec, execAppend, append_room v h]
  rfl

/-- While there is room, the appended bits come to stand after the bits held, and nothing else of the state moves. -/
theorem appendAll_bufferHolds {vs us : List Bool} {s : State} (h : BufferHolds us s.bits s.cursor)
    (hroom : us.length + vs.length ≤ 60) :
    ∃ b c r, BufferHolds (us ++ vs) b c ∧ appendAll vs s = .next { s with bits := b, cursor := c, returned := r } := by
  induction vs generalizing us s with
  | nil => exact ⟨s.bits, s.cursor, s.returned, by rwa [List.append_nil], rfl⟩
  | cons v vs ih =>
    rw [List.length_cons] at hroom
    have hc : s.cursor.toNat < 60 := h.1.trans_lt (by omega)
    obtain ⟨b, c, r, hb, hrun⟩ :=
      ih (s := { s with bits := setBit s.bits s.cursor v, cursor := s.cursor + 1, returned := .status .bitAppended })
        (h.setBit hc v) (by rw [List.length_append, List.length_singleton]; omega)
    refine ⟨b, c, r, by rwa [List.append_cons], ?_⟩
    rw [appendAll, exec_append_room v hc]
    exact hrun

/-- Settles O34: by induction on the appended bits, from a buffer that holds none. -/
theorem kthAppendedBitStandsAtPositionK : Obligations.KthAppendedBitStandsAtPositionK := by
  intro vs s hlen hbits hcursor
  have hempty : BufferHolds [] s.bits s.cursor := by
    rw [hbits, hcursor]
    exact bufferHolds_nil
  obtain ⟨b, c, r, ⟨hc, hb⟩, hrun⟩ := appendAll_bufferHolds (vs := vs) hempty (by simpa using hlen)
  exact ⟨b, c, r, hc, hb, hrun⟩

/-! ## NOP and SNAP write no register (R56, R197) -/

/-- Either command writes the output ports and the result field alone. -/
theorem exec_decode_nop_snap_frame {w : Nat} {c : CmdWord w} {s t : State}
    (hop : opField c = 0b00#2 ∨ opField c = 0b11#2) (h : exec (decode c) s = .next t) :
    t = { s with out := t.out, returned := t.returned } := by
  rcases hop with hop | hop
  · rw [decode_nop hop] at h
    cases h
    rfl
  · rw [decode_snap hop] at h
    obtain ⟨-, rfl⟩ := exec_snap_next h
    rfl

/-- Settles O58: by induction on the commands, each of which keeps every register. -/
theorem onlyEdgesAndInitChangeRegisters : Obligations.OnlyEdgesAndInitChangeRegisters := by
  intro cs
  induction cs with
  | nil =>
    intro s u outs _ hu
    cases hu
    rfl
  | cons c cs ih =>
    intro s u outs hops hu
    obtain ⟨t, rest, ht, hrest, -⟩ := observe_cons_next hu
    obtain ⟨hop, hops⟩ := List.forall_mem_cons.mp hops
    have hts := exec_decode_nop_snap_frame hop ht
    have hut := ih t u rest (by rwa [exec_params ht]) hrest
    rw [hts] at hut
    exact hut

end Sys2Proof.Machine

namespace Sys2Proof

/-! ## The fields of a command word, and the word they assemble (R60) -/

theorem opField_getLsbD {w : Nat} (c : CmdWord w) {i : Nat} (hi : i < 2) :
    (opField c).getLsbD i = c.getLsbD (w + 1 + i) := by
  simp [opField, hi]

theorem lvField_getLsbD_zero {w : Nat} (c : CmdWord w) : (lvField c).getLsbD 0 = c.getLsbD w := by
  simp [lvField]

theorem tsField_getLsbD {w : Nat} (c : CmdWord w) {i : Nat} (hi : i < w) : (tsField c).getLsbD i = c.getLsbD i := by
  simp [tsField, hi]

theorem opField_eq_iff {w : Nat} {c : CmdWord w} {op : BitVec 2} :
    opField c = op ↔ ∀ i, i < 2 → c.getLsbD (w + 1 + i) = op.getLsbD i := by
  constructor
  · rintro rfl i hi
    exact (opField_getLsbD c hi).symm
  · exact fun h => BitVec.eq_of_getLsbD_eq fun i hi => (opField_getLsbD c hi).trans (h i hi)

theorem lvField_eq_iff {w : Nat} {c : CmdWord w} {lv : BitVec 1} : lvField c = lv ↔ c.getLsbD w = lv.getLsbD 0 := by
  constructor
  · rintro rfl
    exact (lvField_getLsbD_zero c).symm
  · intro h
    refine BitVec.eq_of_getLsbD_eq fun i hi => ?_
    obtain rfl : i = 0 := by omega
    exact (lvField_getLsbD_zero c).trans h

theorem tsField_eq_iff {w : Nat} {c : CmdWord w} {ts : BitVec w} :
    tsField c = ts ↔ ∀ i, i < w → c.getLsbD i = ts.getLsbD i := by
  constructor
  · rintro rfl i hi
    exact (tsField_getLsbD c hi).symm
  · exact fun h => BitVec.eq_of_getLsbD_eq fun i hi => (tsField_getLsbD c hi).trans (h i hi)

/-- A word is assembled from its own three fields: they cover it. -/
@[simp] theorem commandWord_fields {w : Nat} (c : CmdWord w) : commandWord (opField c) (lvField c) (tsField c) = c := by
  refine BitVec.eq_of_getLsbD_eq fun i hi => ?_
  rw [commandWord_getLsbD]
  split
  · next hts => exact tsField_getLsbD c hts
  · split
    · next hlv => rw [lvField_getLsbD_zero, hlv]
    · rw [opField_getLsbD c (by omega), show w + 1 + (i - (w + 1)) = i by omega]

theorem eq_commandWord_iff {w : Nat} {c : CmdWord w} {op : BitVec 2} {lv : BitVec 1} {ts : BitVec w} :
    c = commandWord op lv ts ↔ opField c = op ∧ lvField c = lv ∧ tsField c = ts := by
  constructor
  · rintro rfl
    simp
  · rintro ⟨rfl, rfl, rfl⟩
    exact (commandWord_fields c).symm

/-- Settles O1: a word is its three fields, and a field is its bits. -/
theorem commandFieldsSitWhereTheFormatSays : Obligations.CommandFieldsSitWhereTheFormatSays := by
  intro w op lv ts c
  rw [← opField_eq_iff, ← lvField_eq_iff, ← tsField_eq_iff]
  exact ⟨eq_commandWord_iff, eq_commandWord_iff⟩

/-! ## Decoding what the encoder writes (R61, R70, R71) -/

/-- The four values of `op`; each is a command (R61). -/
theorem op_cases (op : BitVec 2) : op = 0b00#2 ∨ op = 0b01#2 ∨ op = 0b10#2 ∨ op = 0b11#2 := by
  revert op
  decide

/-- The host commands, by the format column of the opcode table. -/
theorem host_cases {i : Instr} (hf : i.family = .host) :
    i = .nop ∨ (∃ lv ts, i = .edge lv ts) ∨ i = .init ∨ i = .snap := by
  cases i with
  | nop => exact .inl rfl
  | edge lv ts => exact .inr (.inl ⟨lv, ts, rfl⟩)
  | init => exact .inr (.inr (.inl rfl))
  | snap => exact .inr (.inr (.inr rfl))
  | classify => cases hf
  | append => cases hf
  | retreat => cases hf
  | normalize => cases hf
  | reset => cases hf
  | finalize => cases hf
  | bcd => cases hf
  | parity => cases hf
  | pulse => cases hf
  | bit0 => cases hf
  | bit1 => cases hf

/-- One word of the port stands for the instruction, and its operands fit that word. -/
def HostCommand (p : Config.Params) (i : Instr) : Prop := i.family = .host ∧ i.wellFormed p = true

theorem decode_hostWord {p : Config.Params} {i : Instr} (h : HostCommand p i) :
    (hostWord p.W i).map decode = some i := by
  obtain ⟨hf, hwf⟩ := h
  rcases host_cases hf with rfl | ⟨lv, ts, rfl⟩ | rfl | rfl
  · exact congrArg some (decode_nop (opField_commandWord _ _ _))
  · exact congrArg some (decode_commandWord_edge lv (of_decide_eq_true hwf))
  · exact congrArg some (decode_init (opField_commandWord _ _ _))
  · exact congrArg some (decode_snap (opField_commandWord _ _ _))

/-- Host commands come back from their words in order. -/
theorem decode_hostWords {p : Config.Params} {is : List Instr} (h : ∀ i ∈ is, HostCommand p i) :
    (is.filterMap (hostWord p.W)).map decode = is := by
  rw [List.map_filterMap]
  exact (List.filterMap_congr fun i hi => decode_hostWord (h i hi)).trans List.filterMap_some

theorem expansion_host (p : Config.Params) {i : Instr} (hf : i.family = .host) : expansion p i = [i] := by
  rcases host_cases hf with rfl | ⟨lv, ts, rfl⟩ | rfl | rfl
  · rfl
  · rfl
  · rfl
  · rfl

/-- R71: the second time is reduced mod `2^W`, so it fits whatever the pulse's width. -/
theorem pulseEdges_hostCommand {p : Config.Params} {t : Nat} (ht : t < 2 ^ p.W) (w : Nat) :
    ∀ i ∈ pulseEdges p t w, HostCommand p i := by
  intro i hi
  rcases List.mem_pair.mp hi with rfl | rfl
  · exact ⟨rfl, decide_eq_true ht⟩
  · exact ⟨rfl, decide_eq_true (pulseEnd_lt p t w)⟩

theorem expansion_hostCommand {p : Config.Params} {i : Instr} (hwf : i.wellFormed p = true) :
    ∀ j ∈ expansion p i, HostCommand p j := by
  have single : i.family = .host → ∀ j ∈ expansion p i, HostCommand p j := by
    intro hf
    rw [expansion_host p hf]
    exact List.forall_mem_singleton.mpr ⟨hf, hwf⟩
  cases i with
  | nop => exact single rfl
  | edge lv ts => exact single rfl
  | init => exact single rfl
  | snap => exact single rfl
  | classify => exact nofun
  | append => exact nofun
  | retreat => exact nofun
  | normalize => exact nofun
  | reset => exact nofun
  | finalize => exact nofun
  | bcd => exact nofun
  | parity => exact nofun
  | pulse t w => exact pulseEdges_hostCommand (of_decide_eq_true (Bool.and_eq_true_iff.mp hwf).1) w
  | bit0 t => exact pulseEdges_hostCommand (of_decide_eq_true hwf) bit0Width
  | bit1 t => exact pulseEdges_hostCommand (of_decide_eq_true hwf) bit1Width

theorem decode_encode {p : Config.Params} {i : Instr} (hwf : i.wellFormed p = true) :
    (encode p i).map decode = expansion p i :=
  decode_hostWords (expansion_hostCommand hwf)

theorem encode_hostCommand {p : Config.Params} {i : Instr} (h : HostCommand p i) :
    ∃ c, encode p i = [c] ∧ decode c = i := by
  have hd := decode_encode h.2
  rw [expansion_host p h.1] at hd
  exact List.map_eq_singleton_iff.mp hd

/-- Settles O2: an instruction's expansion is host commands whose operands fit, and each of those comes back from its
word. -/
theorem decodeOfEncodeIsTheCommand : Obligations.DecodeOfEncodeIsTheCommand :=
  fun _ _ hwf => ⟨decode_encode hwf, fun hf => encode_hostCommand ⟨hf, hwf⟩⟩

/-- Settles O7: the two edges fit their words for every width of the pulse. -/
theorem pseudoInstructionsExpandToTwoEdges : Obligations.PseudoInstructionsExpandToTwoEdges :=
  fun _ _ w ht => ⟨decode_hostWords (pulseEdges_hostCommand ht w), rfl, rfl⟩

/-- Settles O6: the literal words, evaluated. -/
theorem writtenWordsDecode : Obligations.WrittenWordsDecode := by
  unfold Obligations.WrittenWordsDecode
  decide

/-! ## Encoding what a word decodes to (R62) -/

theorem encode_decode_edge {p : Config.Params} {c : CmdWord p.W} (h : opField c = 0b01#2) :
    encode p (decode c) = [c] := by
  have hc : commandWord 0b01#2 (lvField c) (BitVec.ofNat p.W (tsField c).toNat) = c := by
    rw [BitVec.ofNat_toNat, BitVec.setWidth_eq, ← h, commandWord_fields]
  rw [decode_edge h]
  exact congrArg (fun d => [d]) hc

/-- The word written for a NOP, INIT or SNAP holds its `op` and zeros. -/
theorem encode_decode_of_ne_edge {p : Config.Params} {c : CmdWord p.W} (h : opField c ≠ 0b01#2) :
    encode p (decode c) = [commandWord (opField c) 0 0] := by
  rcases op_cases (opField c) with ho | ho | ho | ho
  · rw [decode_nop ho, ho]; rfl
  · exact absurd ho h
  · rw [decode_init ho, ho]; rfl
  · rw [decode_snap ho, ho]; rfl

/-- Settles O3: an EDGE word is its three fields, and another command's word keeps its `op` alone. -/
theorem encodeOfDecodeKeepsEveryReadBit : Obligations.EncodeOfDecodeKeepsEveryReadBit := by
  refine fun p c => ⟨decode_wellFormed p c, ?_⟩
  by_cases h : opField c = 0b01#2
  · exact ⟨c, encode_decode_edge h, rfl, fun _ => rfl, fun hne => absurd h hne⟩
  · exact ⟨_, encode_decode_of_ne_edge h, by simp, fun he => absurd he h, fun _ => by simp⟩

/-! ## The bits NOP, INIT and SNAP ignore (R62) -/

theorem decode_eq_of_opField_eq {w : Nat} {c d : CmdWord w} (h : opField c = opField d) (hc : opField c ≠ 0b01#2) :
    decode c = decode d := by
  rcases op_cases (opField c) with ho | ho | ho | ho
  · rw [decode_nop ho, decode_nop (h ▸ ho)]
  · exact absurd ho hc
  · rw [decode_init ho, decode_init (h ▸ ho)]
  · rw [decode_snap ho, decode_snap (h ▸ ho)]

theorem encode_mem_ignored_zero {p : Config.Params} {i : Instr} {c : CmdWord p.W}
    (hi : i = .nop ∨ i = .init ∨ i = .snap) (hc : c ∈ encode p i) : lvField c = 0 ∧ tsField c = 0 := by
  have hword : ∃ op, c = commandWord op 0 0 := by
    rcases hi with rfl | rfl | rfl
    · exact ⟨_, List.mem_singleton.mp hc⟩
    · exact ⟨_, List.mem_singleton.mp hc⟩
    · exact ⟨_, List.mem_singleton.mp hc⟩
  obtain ⟨op, rfl⟩ := hword
  simp

/-- Settles O5: outside EDGE the decoder reads `op` alone, and the encoder writes 0 for the rest. -/
theorem ignoredBitsChangeNothing : Obligations.IgnoredBitsChangeNothing :=
  ⟨fun _ _ _ s h hc => congrArg (Machine.exec · s) (decode_eq_of_opField_eq h hc), fun _ _ h => decode_edge h,
    fun _ _ _ hi hc => encode_mem_ignored_zero hi hc⟩

/-! ## The opcode table's rows (R61) -/

/-- Masking with the bits of `op` leaves `op` and clears the other two fields. -/
theorem and_opMask {w : Nat} (c : CmdWord w) : c &&& commandWord 0b11#2 0 0 = commandWord (opField c) 0 0 := by
  refine eq_commandWord_iff.mpr
    ⟨opField_eq_iff.mpr fun i hi => ?_, lvField_eq_iff.mpr ?_, tsField_eq_iff.mpr fun i hi => ?_⟩
  · have hone : (0b11#2).getLsbD i = true := by
      revert i
      decide
    rw [BitVec.getLsbD_and, ← opField_getLsbD _ hi, ← opField_getLsbD _ hi, opField_commandWord, hone, Bool.and_true]
  · rw [BitVec.getLsbD_and, ← lvField_getLsbD_zero (commandWord _ _ _), lvField_commandWord]
    simp
  · rw [BitVec.getLsbD_and, ← tsField_getLsbD (commandWord _ _ _) hi, tsField_commandWord]
    simp

/-- The mnemonic of a word depends on its `op` alone. -/
theorem decode_mnemonic {w : Nat} (c : CmdWord w) :
    (decode c).mnemonic = (decode (commandWord (opField c) 0 0 : CmdWord 32)).mnemonic := by
  rcases op_cases (opField c) with h | h | h | h
  · rw [decode_nop h, h]; rfl
  · rw [decode_edge h, h]; rfl
  · rw [decode_init h, h]; rfl
  · rw [decode_snap h, h]; rfl

/-- The table's row of an `op` value: the mask picks the bits of `op` out. -/
def rowOf (op : BitVec 2) : OpcodeRow :=
  ⟨(decode (commandWord op 0 0 : CmdWord 32)).mnemonic, commandWord 0b11#2 0 0, commandWord op 0 0⟩

theorem opcodeRows_eq_map_rowOf : opcodeRows = [0b00#2, 0b01#2, 0b10#2, 0b11#2].map rowOf := by
  decide

theorem mem_opcodeRows_iff {r : OpcodeRow} : r ∈ opcodeRows ↔ ∃ op, rowOf op = r := by
  have hall : ∀ op : BitVec 2, op ∈ [0b00#2, 0b01#2, 0b10#2, 0b11#2] := by decide
  rw [opcodeRows_eq_map_rowOf, List.mem_map]
  exact exists_congr fun op => and_iff_right (hall op)

theorem rowOf_holds_iff {op : BitVec 2} {c : CmdWord 32} : (rowOf op).holds c = true ↔ opField c = op := by
  rw [OpcodeRow.holds, rowOf, and_opMask, beq_iff_eq, eq_commandWord_iff]
  simp

/-- Settles O4: the rows are those of the four `op` values, and a row holds of the words with its value. -/
theorem everyWordIsExactlyOneTableRow : Obligations.EveryWordIsExactlyOneTableRow := by
  refine ⟨fun c =>
      ⟨rowOf (opField c), mem_opcodeRows_iff.mpr ⟨_, rfl⟩, rowOf_holds_iff.mpr rfl, decode_mnemonic c, ?_⟩,
    fun w c => ⟨decode_nop, fun h => ⟨_, _, decode_edge h⟩, decode_init, decode_snap⟩⟩
  intro q hq hholds
  obtain ⟨op, rfl⟩ := mem_opcodeRows_iff.mp hq
  rw [rowOf_holds_iff.mp hholds]

end Sys2Proof

namespace Sys2Proof.Machine

/-! ## A pulse's two edges (R71) -/

/-- Settles O31: each is a pulse, of `w`, 100 or 200 ms, and a pulse is its two edge steps. -/
theorem pulseIsItsTwoEdgeSteps : Obligations.PulseIsItsTwoEdgeSteps := by
  intro t w s h
  have hfirst := exec_edge h s.params.pulseLevel t
  have hsecond (d : Nat) := exec_edge (s := edgeStep s.params.pulseLevel t s) (by simpa using h)
    (1 - s.params.pulseLevel) (pulseEnd s.params t d)
  exact ⟨_, _, _, _, _, _, hfirst, hsecond w, pulse_next h t w, hfirst, hsecond 100, pulse_next h t bit0Width,
    hfirst, hsecond 200, pulse_next h t bit1Width⟩

theorem pauseLevel_ne_pulseLevel (l : Level) : 1 - l ≠ l := by
  revert l
  decide

/-! ## A pulse that appends one bit (R83, R86, R88, R89) -/

/-- A pulse-start edge at `t` sets the baseline: it is the first edge after INIT, or neither a bounce nor a sync and
past the debounce time. -/
def SetsBaseline (s : State) (t : Nat) : Prop :=
  s.phase = .idle ∨
    (AwaitsPulseStart s ∧ s.params.tDebounce < s.elapsed t ∧ s.params.tBounce ≤ s.elapsed t ∧
      s.elapsed t ≤ s.params.tSync)

/-- R87, R88: a pulse-start edge past the debounce time moves both timestamps. -/
theorem moveTiming_pulseStart {p : Config.Params} {e : Nat} (h : p.tDebounce < e) (s : State) (lv : Level) (ts : Nat) :
    s.moveTiming p .pulseStart e lv ts = { s with tPulse := ts, tBase := ts, prevLevel := lv } := by
  rw [State.moveTiming, if_pos rfl, if_pos h]

/-- R87, R88: a pulse-end edge within the debounce time moves neither. -/
theorem moveTiming_pulseEnd {p : Config.Params} {e : Nat} (h : e ≤ p.tDebounce) (s : State) (lv : Level) (ts : Nat) :
    s.moveTiming p .pulseEnd e lv ts = { s with prevLevel := lv } := by
  simp [State.moveTiming, Nat.not_lt.mpr h]

/-- Inside a pulse that began at `t`: both timestamps stand there, and the next edge ends it. -/
def State.pulseStarted (s : State) (t : Nat) : State :=
  { s with
    tBase := t, tPulse := t, prevLevel := s.params.pulseLevel, phase := .tracking, out := Outputs.only .edgeRecorded,
    returned := .nothing }

theorem edgeStep_pulseStart {s : State} {t : Nat} (h : SetsBaseline s t) :
    edgeStep s.params.pulseLevel t s = s.pulseStarted t := by
  rcases h with hidle | ⟨⟨-, hphase, hlevel⟩, hdebounce, hbounce, hsync⟩
  · rw [edgeStep_idle hidle]
    rfl
  · have hkind : s.nextKind = .pulseStart := edgeKind_pulseStart.mpr hlevel
    have ho : s.outcomeAt t = .none := by
      rw [State.outcomeAt, hkind]
      exact classify_none _ hsync hbounce
    rw [edgeStep_outcome hphase _ t ho, hkind, moveTiming_pulseStart hdebounce, State.pulseStarted, ← hphase]
    rfl

/-- The thresholds take a pulse of `w` ms as the bit `v`, and its end does not move the baseline. -/
structure ReadsAs (p : Config.Params) (w : Nat) (v : Bool) : Prop where
  fits : w < 2 ^ p.W
  window : p.tWinLo ≤ w ∧ w < p.tWinHi
  keeps_base : w ≤ p.tDebounce
  split : v = true ↔ p.tSplit ≤ w

theorem SecondPulses.two_pow_le {p : Config.Params} (h : SecondPulses p) : 65536 ≤ 2 ^ p.W :=
  Nat.pow_le_pow_right (n := 2) (by omega) h.1

/-- R71: the pulse of a bit, `BIT1`'s for a 1 and `BIT0`'s for a 0. -/
def bitWidth (v : Bool) : Nat := if v then bit1Width else bit0Width

theorem SecondPulses.readsAs {p : Config.Params} (h : SecondPulses p) (v : Bool) : ReadsAs p (bitWidth v) v := by
  have hfits := h.two_pow_le
  obtain ⟨-, hlo, hsplit0, hsplit1, hhi, hdebounce, -⟩ := h
  cases v with
  | false =>
    have hw : bitWidth false = 100 := rfl
    rw [hw]
    exact ⟨by omega, by omega, by omega, by simpa using hsplit0⟩
  | true =>
    have hw : bitWidth true = 200 := rfl
    rw [hw]
    exact ⟨by omega, by omega, by omega, by simpa using hsplit1⟩

/-- The outcome that appends the bit. -/
def bitOutcome (v : Bool) : EdgeOutcome := if v then .one else .zero

theorem applyOutcome_bitOutcome (v : Bool) (s : State) : applyOutcome (bitOutcome v) s = append v s := by
  cases v with
  | false => rfl
  | true => rfl

theorem ReadsAs.classify {p : Config.Params} {w : Nat} {v : Bool} (h : ReadsAs p w v) :
    classify p .pulseEnd w w = bitOutcome v := by
  cases v with
  | false => exact classify_zero h.window (by simpa using h.split)
  | true => exact classify_one h.window (by simpa using h.split)

/-- After a pulse from `t` on that is the bit `v`. -/
def State.afterBit (s : State) (t : Nat) (v : Bool) : State :=
  { s with
    bits := setBit s.bits s.cursor v, cursor := s.cursor + 1, tBase := t, tPulse := t,
    prevLevel := 1 - s.params.pulseLevel, phase := .tracking, out := Outputs.only .bitAppended, returned := .nothing }

theorem edgeStep_pulseEnd {s : State} {w : Nat} {v : Bool} (hw : ReadsAs s.params w v) (hc : s.cursor.toNat < 60)
    (t : Nat) :
    edgeStep (1 - s.params.pulseLevel) (pulseEnd s.params t w) (s.pulseStarted t) = s.afterBit t v := by
  have hkind : (s.pulseStarted t).nextKind = .pulseEnd := edgeKind_pulseEnd.mpr rfl
  have hwidth : delta s.params.W (pulseEnd s.params t w) t = w := delta_pulseEnd s.params t hw.fits
  have helapsed : (s.pulseStarted t).elapsed (pulseEnd s.params t w) = w := hwidth
  have hplen : (s.pulseStarted t).plen (pulseEnd s.params t w) = w := hwidth
  have ho : (s.pulseStarted t).outcomeAt (pulseEnd s.params t w) = bitOutcome v := by
    rw [State.outcomeAt, hkind, helapsed, hplen]
    exact hw.classify
  have happend := append_room (s := (s.pulseStarted t).beginStep) v hc
  rw [edgeStep_outcome rfl _ _ ho, applyOutcome_bitOutcome, happend, hkind, helapsed,
    moveTiming_pulseEnd (p := (s.pulseStarted t).params) hw.keeps_base]
  rfl

/-- A bit's pulse, from an edge that sets the baseline on, moves the state to the appended bit. -/
theorem pulse_bit {s : State} {t w : Nat} {v : Bool} (hi : s.initialised = true) (ht : SetsBaseline s t)
    (hw : ReadsAs s.params w v) (hc : s.cursor.toNat < 60) :
    pulse t w s = .next ((s.afterBit t v).reply (.firstStep (Outputs.only .edgeRecorded))) := by
  rw [pulse_next hi, edgeStep_pulseStart ht, edgeStep_pulseEnd hw hc]
  rfl

/-- Settles O32: the two pulses read as 0 and 1, and a 0 leaves the bits as they are. -/
theorem bitPulsesAppendTheirBit : Obligations.BitPulsesAppendTheirBit := by
  intro t s hawait hp hdebounce hbounce hsync hc
  have hbase : SetsBaseline s t := .inr ⟨hawait, hdebounce, hbounce, hsync⟩
  obtain ⟨hi, hphase, -⟩ := hawait
  refine ⟨s.cursor + 1, setBit s.bits s.cursor true, cursor_succ_toNat hc, fun i hi => ?_, ?_, ?_⟩
  · rw [setBit_getLsbD _ _ _ i hi, Bool.and_true]
  · rw [hphase]
    exact pulse_bit hi hbase (hp.readsAs false) hc
  · rw [hphase]
    exact pulse_bit hi hbase (hp.readsAs true) hc

/-! ## Observing the words of a program -/

theorem programWords_append (p : Config.Params) (is js : List Instr) :
    programWords p (is ++ js) = programWords p is ++ programWords p js := by
  simp [programWords]

theorem programWords_cons (p : Config.Params) (i : Instr) (is : List Instr) :
    programWords p (i :: is) = programWords p [i] ++ programWords p is :=
  programWords_append p [i] is

/-- One word runs a host command. -/
theorem observe_hostCommand {p : Config.Params} {i : Instr} {s t : State} (hp : s.params = p) (hi : HostCommand p i)
    (h : exec i s = .next t) : observe (programWords p [i]) s = .next ([t.out], t) := by
  subst hp
  obtain ⟨c, hc, hd⟩ := encode_hostCommand hi
  have hwords : programWords s.params [i] = [c.toNat] := by simp [programWords, hc]
  rw [hwords]
  exact observe_cons (by rw [portWord_toNat, hd, h]) rfl

theorem observe_edge {p : Config.Params} {s : State} {ts : Nat} (hp : s.params = p) (hi : s.initialised = true)
    (hts : ts < 2 ^ p.W) (lv : Level) :
    observe (programWords p [.edge lv ts]) s = .next ([(edgeStep lv ts s).out], edgeStep lv ts s) :=
  observe_hostCommand hp ⟨rfl, decide_eq_true hts⟩ (exec_edge hi lv ts)

/-- R71: the pulse that stands for a bit. -/
def bitPulse (v : Bool) (t : Nat) : Instr := if v then .bit1 t else .bit0 t

theorem programWords_bitPulse (p : Config.Params) (v : Bool) (t : Nat) :
    programWords p [bitPulse v t] = programWords p (pulseEdges p t (bitWidth v)) := by
  cases v with
  | false => rfl
  | true => rfl

theorem observe_bitPulse {p : Config.Params} {s : State} {t : Nat} (hp : s.params = p) (hread : SecondPulses p)
    (hi : s.initialised = true) (ht : SetsBaseline s t) (hfits : t < 2 ^ p.W) (hc : s.cursor.toNat < 60) (v : Bool) :
    observe (programWords p [bitPulse v t]) s =
      .next ([Outputs.only .edgeRecorded, Outputs.only .bitAppended], s.afterBit t v) := by
  have hstart := observe_edge hp hi hfits p.pulseLevel
  have hend := observe_edge (s := s.pulseStarted t) hp hi (pulseEnd_lt p t (bitWidth v)) (1 - p.pulseLevel)
  subst hp
  rw [edgeStep_pulseStart ht] at hstart
  rw [edgeStep_pulseEnd (hread.readsAs v) hc] at hend
  rw [programWords_bitPulse, pulseEdges, programWords_cons]
  exact observe_append hstart hend

/-! ## A minute of pulses (programs P1 and P4) -/

/-- The CORE has received the first `k` bits of the telegram, one each second since INIT. -/
structure Receiving (p : Config.Params) (n : Buffer) (k : Nat) (s : State) : Prop where
  params_eq : s.params = p
  initialised : s.initialised = true
  pf_eq : s.pf = 0
  holds : BufferHolds ((List.range k).map n.getLsbD) s.bits s.cursor
  timing : k = 0 ∧ s.phase = .idle ∨ AwaitsPulseStart s ∧ s.tBase + 1000 = 1000 * k

theorem Receiving.cursor_toNat {p : Config.Params} {n : Buffer} {k : Nat} {s : State} (h : Receiving p n k s) :
    s.cursor.toNat = k := by
  simpa using h.holds.1

theorem receiving_init (n : Buffer) (s : State) :
    Receiving s.params n 0 (s.beginStep.initialise.driveStatus .initDone) where
  params_eq := rfl
  initialised := rfl
  pf_eq := rfl
  holds := bufferHolds_nil
  timing := .inl ⟨rfl, rfl⟩

/-- The next second's pulse starts a second after the last one did. -/
theorem Receiving.setsBaseline {p : Config.Params} {n : Buffer} {k : Nat} {s : State} (h : Receiving p n k s)
    (hread : SecondPulses p) (hk : k < 60) : SetsBaseline s (1000 * k) := by
  have hfits := hread.two_pow_le
  rcases h.timing with ⟨-, hidle⟩ | ⟨hawait, hbase⟩
  · exact .inl hidle
  · obtain ⟨hp, -⟩ := h
    subst hp
    have helapsed : s.elapsed (1000 * k) = 1000 := by
      rw [State.elapsed, delta_of_le (by omega) (by omega)]
      omega
    obtain ⟨-, -, -, -, -, -, hdebounce, hbounce, hsync, -⟩ := hread
    rw [SetsBaseline, helapsed]
    exact .inr ⟨hawait, hdebounce, hbounce, hsync⟩

theorem Receiving.afterBit {p : Config.Params} {n : Buffer} {k : Nat} {s : State} (h : Receiving p n k s) (hk : k < 60) :
    Receiving p n (k + 1) (s.afterBit (1000 * k) (n.getLsbD k)) where
  params_eq := h.params_eq
  initialised := h.initialised
  pf_eq := h.pf_eq
  holds := by
    rw [List.range_succ, List.map_append]
    exact h.holds.setBit (by rwa [h.cursor_toNat]) _
  timing := .inr ⟨⟨h.initialised, rfl, pauseLevel_ne_pulseLevel _⟩, rfl⟩

/-- Each second's pulse brings one bit, and no step of it presents a record. -/
theorem observe_pulsesFrom {p : Config.Params} {n : Buffer} (hread : SecondPulses p) {count k : Nat} {s : State}
    (h : Receiving p n k s) (hk : k + count ≤ 60) :
    ∃ outs t, observe (programWords p (pulsesFrom n k count)) s = .next (outs, t) ∧ outs.length = 2 * count ∧
      (∀ x ∈ outs, x.recValid = false) ∧ Receiving p n (k + count) t := by
  induction count generalizing k s with
  | zero => exact ⟨[], s, rfl, rfl, nofun, h⟩
  | succ count ih =>
    have hfits := hread.two_pow_le
    have hpulse := observe_bitPulse h.params_eq hread h.initialised (h.setsBaseline hread (by omega)) (by omega)
      (by rw [h.cursor_toNat]; omega) (n.getLsbD k)
    obtain ⟨outs, t, hrun, hlen, hnone, ht⟩ := ih (h.afterBit (by omega)) (by omega)
    refine ⟨Outputs.only .edgeRecorded :: Outputs.only .bitAppended :: outs, t, ?_, ?_, ?_, ?_⟩
    · rw [pulsesFrom, programWords_cons]
      exact observe_append hpulse hrun
    · rw [List.length_cons, List.length_cons, hlen]
      omega
    · exact List.forall_mem_cons.mpr ⟨rfl, List.forall_mem_cons.mpr ⟨rfl, hnone⟩⟩
    · rwa [show k + (count + 1) = k + 1 + count by omega]

theorem Receiving.bits_eq {p : Config.Params} {n : Buffer} {s : State} (h : Receiving p n 60 s) : s.bits = n := by
  refine BitVec.eq_of_getLsbD_eq fun i hi => ?_
  rw [h.holds.2 i hi]
  simp [hi]

/-- Finalize reads the parameters and the buffer, and hands `pf` and the ports on. -/
theorem finalize_sync_congr {a b : State} (hp : a.params = b.params) (hbits : a.bits = b.bits) (hc : a.cursor = b.cursor)
    (hpf : a.pf = b.pf) (hout : a.out = b.out) :
    (finalize .sync a).2 = (finalize .sync b).2 ∧ (finalize .sync a).1.out = (finalize .sync b).1.out ∧
      (finalize .sync a).1.pf = (finalize .sync b).1.pf := by
  rcases Nat.lt_or_ge a.params.minCursor a.cursor.toNat with h | h
  · rw [finalize_long h, finalize_long (hp ▸ hc ▸ h), hp, hbits, hc]
    by_cases hv : verdict (normalize b.params b.bits b.cursor) = .telegramDelivered
    · rw [State.decodeTelegram_delivered hv, State.decodeTelegram_delivered hv]
      simp [hout]
    · rw [State.decodeTelegram_discarded hv, State.decodeTelegram_discarded hv]
      simp [hout]
  · rw [finalize_short h, finalize_short (hp ▸ hc ▸ h)]
    exact ⟨rfl, hout, hpf⟩

/-- The gap of two seconds ends the telegram (R84). -/
theorem Receiving.edgeStep_sync {p : Config.Params} {n : Buffer} {s : State} (h : Receiving p n 60 s)
    (hread : SecondPulses p) :
    edgeStep p.pulseLevel 61000 s =
      ((finalize .sync s.beginStep).1.driveStatus (finalize .sync s.beginStep).2).moveTiming s.params .pulseStart
        (s.elapsed 61000) p.pulseLevel 61000 := by
  have hfits := hread.two_pow_le
  obtain ⟨hp, -, -, -, htiming⟩ := h
  subst hp
  obtain ⟨hk, -⟩ | ⟨⟨-, hphase, hlevel⟩, hbase⟩ := htiming
  · omega
  have hkind : s.nextKind = .pulseStart := edgeKind_pulseStart.mpr hlevel
  have helapsed : s.elapsed 61000 = 2000 := by
    rw [State.elapsed, delta_of_le (by omega) (by omega)]
    omega
  have ho : s.outcomeAt 61000 = .minuteSync := by
    obtain ⟨-, -, -, -, -, -, -, -, -, hsync⟩ := hread
    rw [State.outcomeAt, hkind, helapsed]
    exact classify_minuteSync _ hsync
  rw [edgeStep_outcome hphase _ _ ho, hkind]
  rfl

theorem exec_finalize (r : FinalizeReason) (s : State) :
    exec (.finalize r) s = .next ((finalize r s).1.reply (.status (finalize r s).2)) := rfl

theorem programWords_minuteOf (p : Config.Params) (n : Buffer) :
    programWords p (minuteOf p n) =
      programWords p [.init] ++ programWords p (pulsesFrom n 0 60) ++ programWords p [.edge p.pulseLevel 61000] := by
  rw [minuteOf, programWords_append, programWords_cons]

/-- Settles O60: INIT, one bit a second by induction, and the sync edge's finalize of a full buffer. -/
theorem minuteOfPulsesIsDecodedOnce : Obligations.MinuteOfPulsesIsDecodedOnce := by
  intro n s hread
  have hfits := hread.two_pow_le
  have hinit := observe_hostCommand (p := s.params) rfl ⟨rfl, rfl⟩ (exec_init s)
  obtain ⟨outs, t, hrun, hlen, hnone, ht⟩ := observe_pulsesFrom (count := 60) hread (receiving_init n s) (by omega)
  have hlast := observe_edge ht.params_eq ht.initialised (ts := 61000) (by omega) s.params.pulseLevel
  have hminute := observe_append (observe_append hinit hrun) hlast
  rw [← programWords_minuteOf, ht.edgeStep_sync hread] at hminute
  obtain ⟨hstatus, hout, hpf⟩ := finalize_sync_congr (a := t.beginStep)
    (b := { State.resetOf s.params with bits := n, cursor := 60, out := Outputs.defaults })
    ht.params_eq ht.bits_eq (BitVec.eq_of_toNat_eq ht.cursor_toNat) ht.pf_eq rfl
  refine ⟨_, _, _, _, _, hminute, ?_, ?_, exec_finalize .sync _, rfl, ?_, finalize_bits .sync _,
    finalize_cursor .sync _, hpf⟩
  · rw [List.length_append, List.length_singleton, hlen]
  · exact List.forall_mem_cons.mpr ⟨rfl, hnone⟩
  · rw [State.moveTiming_out, State.driveStatus_out, hstatus, hout]
    rfl

end Sys2Proof.Machine

namespace Sys2Proof.Machine

/-! ## The classifier's outcomes (R82), and the source's literal order (R92) -/

/-- R82: the condition under which the classifier answers `o`. -/
def ClassifiedAs (p : Config.Params) (k : EdgeKind) (e l : Nat) : EdgeOutcome → Prop
  | .minuteSync => k = .pulseStart ∧ p.tSync < e
  | .bounce => k = .pulseStart ∧ e ≤ p.tSync ∧ e < p.tBounce
  | .none => k = .pulseStart ∧ e ≤ p.tSync ∧ p.tBounce ≤ e
  | .one => k = .pulseEnd ∧ p.tWinLo ≤ e ∧ e < p.tWinHi ∧ p.tSplit ≤ l
  | .zero => k = .pulseEnd ∧ p.tWinLo ≤ e ∧ e < p.tWinHi ∧ l < p.tSplit
  | .ignore => k = .pulseEnd ∧ (e < p.tWinLo ∨ p.tWinHi ≤ e)

theorem outside_window_iff {p : Config.Params} {e : Nat} :
    ¬ (p.tWinLo ≤ e ∧ e < p.tWinHi) ↔ e < p.tWinLo ∨ p.tWinHi ≤ e := by
  omega

theorem classify_eq_iff {p : Config.Params} {k : EdgeKind} {e l : Nat} (o : EdgeOutcome) :
    classify p k e l = o ↔ ClassifiedAs p k e l o := by
  constructor
  · rintro rfl
    rcases classify_cases p k e l with ⟨hk, hs, ho⟩ | ⟨hk, hs, hb, ho⟩ | ⟨hk, hs, hb, ho⟩ | ⟨hk, hlo, hhi, hl, ho⟩ |
      ⟨hk, hlo, hhi, hl, ho⟩ | ⟨hk, hw, ho⟩
    · rw [ho]; exact ⟨hk, hs⟩
    · rw [ho]; exact ⟨hk, hs, hb⟩
    · rw [ho]; exact ⟨hk, hs, hb⟩
    · rw [ho]; exact ⟨hk, hlo, hhi, hl⟩
    · rw [ho]; exact ⟨hk, hlo, hhi, hl⟩
    · rw [ho]; exact ⟨hk, outside_window_iff.mp hw⟩
  · cases o with
    | minuteSync => rintro ⟨rfl, hs⟩; exact classify_minuteSync l hs
    | bounce => rintro ⟨rfl, hs, hb⟩; exact classify_bounce l hs hb
    | none => rintro ⟨rfl, hs, hb⟩; exact classify_none l hs hb
    | one => rintro ⟨rfl, hlo, hhi, hl⟩; exact classify_one ⟨hlo, hhi⟩ hl
    | zero => rintro ⟨rfl, hlo, hhi, hl⟩; exact classify_zero ⟨hlo, hhi⟩ hl
    | ignore => rintro ⟨rfl, hw⟩; exact classify_ignore l (outside_window_iff.mpr hw)

/-- Settles O29: the outcome is the classifier's, and each has its own condition. -/
theorem classifierAnswersByTiming : Obligations.ClassifierAnswersByTiming := fun k e l s =>
  ⟨classify s.params k e l, rfl, classify_eq_iff .minuteSync, classify_eq_iff .bounce, classify_eq_iff .none,
    classify_eq_iff .one, classify_eq_iff .zero, classify_eq_iff .ignore⟩

/-- The literal order's step 4 differs only at a pulse-start edge in the window that is no bounce, and with
`T_WIN_HI ≤ T_BOUNCE` there is none. -/
theorem classify_eq_classifyLiteral {p : Config.Params} (h : p.tWinHi ≤ p.tBounce) (k : EdgeKind) (e l : Nat) :
    classify p k e l = classifyLiteral p k e l := by
  cases k with
  | pulseEnd => simp [classify, classifyLiteral]
  | pulseStart =>
    by_cases hs : p.tSync < e
    · simp [classify, classifyLiteral, hs]
    by_cases hb : e < p.tBounce
    · simp [classify, classifyLiteral, hs, hb]
    have hwindow : ¬ (p.tWinLo ≤ e ∧ e < p.tWinHi) := by omega
    simp [classify, classifyLiteral, hs, hb, hwindow]

/-- Settles O30: agreement by the window's end; they differ on a build with `T_BOUNCE` 100, where the literal order takes a
pulse-start edge 150 ms after the baseline for a bit. -/
theorem classifierAgreesWithTheLiteralOrder : Obligations.ClassifierAgreesWithTheLiteralOrder :=
  ⟨fun _ k e l h => classify_eq_classifyLiteral h k e l, by decide,
    { Config.params with tBounce := 100 }, .pulseStart, 150, 0, by decide, by decide, by decide, by decide⟩

/-! ## EDGE in each phase, by the kind of the edge (R80, R93) -/

/-- Settles O19: the first edge's step is the seeding itself. -/
theorem firstEdgeSeedsTheTiming : Obligations.FirstEdgeSeedsTheTiming := by
  intro lv ts s hi hidle
  rw [exec_edge hi, edgeStep_idle hidle]
  rfl

/-- R80: an INIT has been performed, and the next edge is of kind `k`. -/
def AwaitsKind (k : EdgeKind) (s : State) : Prop :=
  s.initialised = true ∧ s.phase = .tracking ∧ s.nextKind = k

theorem AwaitsPulseStart.awaitsKind {s : State} (h : AwaitsPulseStart s) : AwaitsKind .pulseStart s :=
  h.imp_right (And.imp_right edgeKind_pulseStart.mpr)

theorem AwaitsPulseEnd.awaitsKind {s : State} (h : AwaitsPulseEnd s) : AwaitsKind .pulseEnd s :=
  h.imp_right (And.imp_right edgeKind_pulseEnd.mpr)

/-- An edge of a known kind and outcome: the outcome's effect and status, then the timing (R93). -/
theorem exec_edge_of_classify {s : State} {k : EdgeKind} (h : AwaitsKind k s) (lv : Level) {ts : Nat} {o : EdgeOutcome}
    (ho : classify s.params k (s.elapsed ts) (s.plen ts) = o) :
    exec (.edge lv ts) s =
      .next (((applyOutcome o s.beginStep).1.driveStatus (applyOutcome o s.beginStep).2).moveTiming s.params k
        (s.elapsed ts) lv ts) := by
  obtain ⟨hi, hphase, rfl⟩ := h
  rw [exec_edge hi, edgeStep_outcome hphase lv ts ho]

/-- R88: an elapsed time within a bound that debouncing exceeds does not move the baseline. -/
theorem baseline_kept {p : Config.Params} {e bound : Nat} (h : e < bound) (hd : bound ≤ p.tDebounce) (ts base : Nat) :
    (if p.tDebounce < e then ts else base) = base :=
  if_neg (by omega)

/-! ## Pulse-start edges (R84 to R86) -/

/-- The three codes of a finalize that reached the parity check (R126 to R128). -/
def FollowsParityCheck (c : Status) : Prop :=
  c = .parityMismatch ∨ c = .invalidDateFields ∨ c = .telegramDelivered

theorem verdict_followsParityCheck (n : Buffer) : FollowsParityCheck (verdict n) := by
  rcases verdict_cases n with ⟨-, e⟩ | ⟨-, -, e⟩ | ⟨-, -, e⟩
  · exact .inl e
  · exact .inr (.inl e)
  · exact .inr (.inr e)

/-- R84: the four codes of a sync finalize. -/
theorem finalize_sync_code (s : State) :
    (finalize .sync s).2 = .telegramTooShort ∨ (finalize .sync s).2 = .parityMismatch ∨
      (finalize .sync s).2 = .invalidDateFields ∨ (finalize .sync s).2 = .telegramDelivered := by
  rcases Nat.lt_or_ge s.params.minCursor s.cursor.toNat with h | h
  · rw [finalize_long h]
    exact .inr (verdict_followsParityCheck _)
  · exact .inl (by rw [finalize_short h])

/-- Settles O20: the outcome is the minute sync, whose effect is finalize's, and finalize writes no timing register. -/
theorem syncEdgeFinalizes : Obligations.SyncEdgeFinalizes := by
  intro lv ts s hawait hsync
  refine ⟨_, _, exec_finalize .sync s.beginStep, rfl, finalize_sync_code s.beginStep, ?_⟩
  rw [exec_edge_of_classify hawait.awaitsKind lv (classify_minuteSync _ hsync), applyOutcome]
  obtain ⟨pf, out, hframe, -⟩ := finalize_frame .sync s.beginStep
  rw [hframe]
  rfl

/-- Settles O21: the outcome is the bounce, and the cursor is the retreat's. -/
theorem bounceEdgeRetreats : Obligations.BounceEdgeRetreats := by
  intro lv ts s hawait hsync hbounce
  refine ⟨s.retreat.cursor, _, retreat_cursor_toNat s, rfl, fun hd => baseline_kept hbounce hd ts s.tBase, ?_⟩
  rw [exec_edge_of_classify hawait.awaitsKind lv (classify_bounce _ hsync hbounce)]
  rfl

/-- Settles O22: the outcome is the one with no effect, so the timing alone moves. -/
theorem plainPulseStartIsRecorded : Obligations.PlainPulseStartIsRecorded := by
  intro lv ts s hawait hbounce hsync
  rw [exec_edge_of_classify hawait.awaitsKind lv (classify_none _ hsync hbounce)]
  rfl

/-! ## Pulse-end edges (R89, R90) -/

/-- R82: in the window an edge carries a bit, a 1 exactly when the pulse is `T_SPLIT` or longer. -/
theorem classify_window {p : Config.Params} {e : Nat} (h : p.tWinLo ≤ e ∧ e < p.tWinHi) (l : Nat) :
    classify p .pulseEnd e l = bitOutcome (decide (p.tSplit ≤ l)) := by
  by_cases hl : p.tSplit ≤ l
  · rw [classify_one h hl, decide_eq_true hl]
    rfl
  · rw [classify_zero h (Nat.not_le.mp hl), decide_eq_false hl]
    rfl

/-- Settles O23: the outcome is a bit's, and append stores it or finds the buffer full. -/
theorem pulseEndInTheWindowAppends : Obligations.PulseEndInTheWindowAppends := by
  intro lv ts s hawait hlo hhi
  have hedge := exec_edge_of_classify hawait.awaitsKind lv (classify_window ⟨hlo, hhi⟩ _)
  rw [applyOutcome_bitOutcome] at hedge
  refine ⟨_, rfl, fun hd => baseline_kept hhi hd ts s.tBase, fun hroom => ?_, fun hfull => ?_⟩
  · refine ⟨_, _, cursor_succ_toNat hroom, setBit_getLsbD s.bits s.cursor (decide (s.params.tSplit ≤ s.plen ts)), ?_⟩
    rw [hedge, append_room (s := s.beginStep) _ hroom]
    rfl
  · rw [hedge, append_full (s := s.beginStep) _ hfull]
    rfl

/-- Settles O24: the outcome is to ignore the edge, so the timing alone moves. -/
theorem pulseEndOutsideTheWindowIsIgnored : Obligations.PulseEndOutsideTheWindowIsIgnored := by
  intro lv ts s hawait hwindow
  rw [exec_edge_of_classify hawait.awaitsKind lv (classify_ignore _ (outside_window_iff.mpr hwindow))]
  rfl

/-! ## Every edge: the timing state and the level it stores (R87, R88, R91) -/

@[simp] theorem edgeStep_prevLevel (lv : Level) (ts : Nat) (s : State) : (edgeStep lv ts s).prevLevel = lv := by
  obtain ⟨_, _, _, _, _, _, e⟩ := edgeStep_frame lv ts s
  rw [e]

theorem edgeStep_tPulse {s : State} (h : s.phase = .tracking) (lv : Level) (ts : Nat) :
    (edgeStep lv ts s).tPulse = if s.prevLevel ≠ s.params.pulseLevel then ts else s.tPulse := by
  rw [edgeStep_outcome h lv ts rfl, State.moveTiming_tPulse, State.driveStatus_tPulse, applyOutcome_tPulse]
  exact if_congr edgeKind_pulseStart rfl rfl

theorem edgeStep_tBase {s : State} (h : s.phase = .tracking) (lv : Level) (ts : Nat) :
    (edgeStep lv ts s).tBase = if s.params.tDebounce < s.elapsed ts then ts else s.tBase := by
  rw [edgeStep_outcome h lv ts rfl, State.moveTiming_tBase, State.driveStatus_tBase, applyOutcome_tBase]
  rfl

/-- Settles O25: no outcome writes a timing register, so the timing writes decide. -/
theorem timingStateAfterEveryEdge : Obligations.TimingStateAfterEveryEdge := by
  intro lv ts s t h
  obtain ⟨-, rfl⟩ := exec_edge_next h
  exact ⟨edgeStep_prevLevel lv ts s, fun htracking => ⟨edgeStep_tPulse htracking lv ts, edgeStep_tBase htracking lv ts⟩⟩

/-- The level is written to `prevLevel` and read by nothing in the step. -/
theorem edgeStep_level (lv lv' : Level) (ts : Nat) (s : State) :
    edgeStep lv' ts s = { edgeStep lv ts s with prevLevel := lv' } := by
  rcases phase_cases s with h | h
  · rw [edgeStep_idle h, edgeStep_idle h]
    rfl
  · rw [edgeStep_tracking h, edgeStep_tracking h]
    rfl

/-- Settles O26: the step with another level differs in `prevLevel` alone. -/
theorem newLevelOnlyDecidesTheNextEdge : Obligations.NewLevelOnlyDecidesTheNextEdge := by
  intro lv lv' ts s t h
  obtain ⟨hi, rfl⟩ := exec_edge_next h
  rw [exec_edge hi, edgeStep_level lv lv']

/-! ## EDGE's frame, by the status it reports -/

/-- R145: `pf` is written only on finalize's decode path. -/
theorem finalize_sync_keeps_pf {s : State} (h : ¬ FollowsParityCheck (finalize .sync s).2) :
    (finalize .sync s).1.pf = s.pf := by
  rcases Nat.lt_or_ge s.params.minCursor s.cursor.toNat with hlong | hshort
  · rw [finalize_long hlong] at h
    exact absurd (verdict_followsParityCheck _) h
  · rw [finalize_short hshort, State.bufferReset_pf]

theorem append_keeps_pf (b : Bool) (s : State) : (append b s).1.pf = s.pf := by
  rcases append_cases b s with ⟨-, e⟩ | ⟨-, e⟩
  · rw [e]
  · rw [e, State.bufferReset_pf]

theorem applyOutcome_keeps_pf {o : EdgeOutcome} {s : State} (h : ¬ FollowsParityCheck (applyOutcome o s).2) :
    (applyOutcome o s).1.pf = s.pf := by
  cases o with
  | minuteSync => exact finalize_sync_keeps_pf h
  | bounce => rfl
  | none => rfl
  | one => exact append_keeps_pf true s
  | zero => exact append_keeps_pf false s
  | ignore => rfl

theorem append_status (b : Bool) (s : State) :
    (append b s).2.isFinalize = true ∨ (append b s).2 = .bitAppended := by
  rcases append_cases b s with ⟨-, e⟩ | ⟨-, e⟩
  · rw [e]; exact .inr rfl
  · rw [e]; exact .inl rfl

/-- What an outcome does to the buffer: it finalizes or appends, takes the cursor back, or does nothing. -/
theorem applyOutcome_buffer_cases (o : EdgeOutcome) (s : State) :
    ((applyOutcome o s).2.isFinalize = true ∨ (applyOutcome o s).2 = .bitAppended) ∨
      ((applyOutcome o s).2 = .bounceCorrected ∧ (applyOutcome o s).1 = s.retreat) ∨ (applyOutcome o s).1 = s := by
  cases o with
  | minuteSync => exact .inl (.inl (finalize_isFinalize .sync s))
  | bounce => exact .inr (.inl ⟨rfl, rfl⟩)
  | none => exact .inr (.inr rfl)
  | one => exact .inl (append_status true s)
  | zero => exact .inl (append_status false s)
  | ignore => exact .inr (.inr rfl)

theorem edgeStep_status {s : State} (h : s.phase = .tracking) (lv : Level) (ts : Nat) :
    (edgeStep lv ts s).out.status = some (applyOutcome (s.outcomeAt ts) s.beginStep).2 := by
  rw [edgeStep_outcome h lv ts rfl, State.moveTiming_out, State.driveStatus_out]

theorem edgeStep_keeps_pf {lv : Level} {ts : Nat} {s : State}
    (h : ∀ c, (edgeStep lv ts s).out.status = some c → ¬ FollowsParityCheck c) : (edgeStep lv ts s).pf = s.pf := by
  rcases phase_cases s with hp | hp
  · rw [edgeStep_idle hp]
    rfl
  · have hkeeps := applyOutcome_keeps_pf (h _ (edgeStep_status hp lv ts))
    rw [edgeStep_outcome hp lv ts rfl, State.moveTiming_pf, State.driveStatus_pf, hkeeps, State.beginStep_pf]

/-- What an edge does to the buffer: it finalizes or appends, takes the cursor back, or leaves it alone. -/
theorem edgeStep_buffer_cases (lv : Level) (ts : Nat) (s : State) :
    (∃ c, (edgeStep lv ts s).out.status = some c ∧ (c.isFinalize = true ∨ c = .bitAppended)) ∨
      ((edgeStep lv ts s).out.status = some .bounceCorrected ∧ (edgeStep lv ts s).bits = s.bits) ∨
      ((edgeStep lv ts s).bits = s.bits ∧ (edgeStep lv ts s).cursor = s.cursor) := by
  rcases phase_cases s with hp | hp
  · rw [edgeStep_idle hp]
    exact .inr (.inr ⟨rfl, rfl⟩)
  · have hstatus := edgeStep_status hp lv ts
    rw [edgeStep_outcome hp lv ts rfl] at hstatus ⊢
    rcases applyOutcome_buffer_cases (s.outcomeAt ts) s.beginStep with hc | ⟨hc, e⟩ | e
    · exact .inl ⟨_, hstatus, hc⟩
    · exact .inr (.inl ⟨hstatus.trans (congrArg some hc), by simp [e]⟩)
    · exact .inr (.inr (by simp [e]))

theorem edgeStep_keeps_buffer {lv : Level} {ts : Nat} {s : State} {c : Status}
    (hs : (edgeStep lv ts s).out.status = some c) (hfinalize : c.isFinalize ≠ true) (happend : c ≠ .bitAppended)
    (hbounce : c ≠ .bounceCorrected) : (edgeStep lv ts s).bits = s.bits ∧ (edgeStep lv ts s).cursor = s.cursor := by
  rcases edgeStep_buffer_cases lv ts s with ⟨d, hd, hcode⟩ | ⟨hd, -⟩ | hkept
  · obtain rfl : c = d := Option.some.inj (hs.symm.trans hd)
    exact absurd hcode (not_or.mpr ⟨hfinalize, happend⟩)
  · exact absurd (Option.some.inj (hs.symm.trans hd)) hbounce
  · exact hkept

@[simp] theorem edgeStep_fault (lv : Level) (ts : Nat) (s : State) : (edgeStep lv ts s).fault = s.fault := by
  obtain ⟨_, _, _, _, _, _, e⟩ := edgeStep_frame lv ts s
  rw [e]

@[simp] theorem edgeStep_cmds (lv : Level) (ts : Nat) (s : State) : (edgeStep lv ts s).cmds = s.cmds := by
  obtain ⟨_, _, _, _, _, _, e⟩ := edgeStep_frame lv ts s
  rw [e]

@[simp] theorem edgeStep_returned (lv : Level) (ts : Nat) (s : State) : (edgeStep lv ts s).returned = .nothing := by
  obtain ⟨_, _, _, _, _, _, e⟩ := edgeStep_frame lv ts s
  rw [e]

@[simp] theorem edgeStep_snapValid (lv : Level) (ts : Nat) (s : State) : (edgeStep lv ts s).out.snapValid = false := by
  rcases edgeStep_out lv ts s with ⟨k, -, e⟩ | ⟨rec, e⟩
  · rw [e]; rfl
  · rw [e]

/-- Settles O27: the bookkeeping by EDGE's frame, `pf` and the buffer by the cases of the outcome. -/
theorem edgeLeavesTheRestUnchanged : Obligations.EdgeLeavesTheRestUnchanged := by
  intro lv ts s t h
  obtain ⟨-, rfl⟩ := exec_edge_next h
  refine ⟨edgeStep_initialised lv ts s, edgeStep_fault lv ts s, edgeStep_cmds lv ts s, edgeStep_phase lv ts s,
    edgeStep_returned lv ts s, fun hparity hdate hdelivered => edgeStep_keeps_pf ?_, ?_, ?_, edgeStep_snapValid lv ts s⟩
  · rintro c hc (rfl | rfl | rfl)
    · exact hparity hc
    · exact hdate hc
    · exact hdelivered hc
  · rintro (hs | hs)
    · exact edgeStep_keeps_buffer hs nofun nofun nofun
    · exact edgeStep_keeps_buffer hs nofun nofun nofun
  · intro hs
    rcases edgeStep_buffer_cases lv ts s with ⟨c, hc, hcode⟩ | ⟨-, hbits⟩ | ⟨hbits, -⟩
    · obtain rfl : .bounceCorrected = c := Option.some.inj (hs.symm.trans hc)
      exact absurd hcode (by decide)
    · exact hbits
    · exact hbits

end Sys2Proof.Machine

namespace Sys2Proof.Machine

/-! ## APPEND: with room, on a full buffer, and one list after another (R100, R101) -/

theorem exec_append_full {s : State} (v : Bool) (h : 60 ≤ s.cursor.toNat) :
    exec (.append v) s = .next { s with bits := 0, cursor := 0, returned := .status .bufferOverflow } := by
  rw [exec, execAppend, append_full v h]
  rfl

/-- Settles O33: the two cases of APPEND, the written bit read back. -/
theorem appendWritesTheBitAtTheCursor : Obligations.AppendWritesTheBitAtTheCursor := fun v s =>
  ⟨fun hroom => ⟨_, _, cursor_succ_toNat hroom, setBit_getLsbD s.bits s.cursor v, exec_append_room v hroom⟩,
    exec_append_full v⟩

/-- APPEND never stops, so a second list of bits is appended from the state the first one left. -/
theorem appendAll_append {us : List Bool} {s t : State} (h : appendAll us s = .next t) (vs : List Bool) :
    appendAll (us ++ vs) s = appendAll vs t := by
  induction us generalizing s with
  | nil =>
    cases h
    rfl
  | cons u us ih => exact ih (s := (append u s).1.reply (.status (append u s).2)) h

/-- Settles O35: the first 60 bits fill the buffer, and the last one finds it full. -/
theorem sixtyFirstBitDiscardsTheTelegram : Obligations.SixtyFirstBitDiscardsTheTelegram := by
  intro vs s hlen hbits hcursor
  obtain rfl | ⟨us, v, rfl⟩ := List.eq_nil_or_concat' vs
  · cases hlen
  have hus : us.length = 60 := by simpa using hlen
  obtain ⟨b, c, r, hc, -, hfill⟩ := kthAppendedBitStandsAtPositionK us s hus.le hbits hcursor
  have hfull : 60 ≤ c.toNat := by rw [hc, hus]
  rw [appendAll_append hfill, appendAll, exec_append_full v hfull, ← hbits, ← hcursor]
  rfl

/-! ## RETREAT and RESET (R102, R106) -/

/-- Settles O36: the cursor is the one that the retreat leaves. -/
theorem retreatStopsAtZero : Obligations.RetreatStopsAtZero := fun s =>
  ⟨s.retreat.cursor, retreat_cursor_toNat s, rfl⟩

/-- Settles O39: RESET is the buffer reset, by definition. -/
theorem resetClearsOnlyTheBuffer : Obligations.ResetClearsOnlyTheBuffer := fun _ => rfl

/-! ## NORMALIZE (R104, R105) -/

theorem normalizeShift_of_le {p : Config.Params} {cursor : Cursor} (h : cursor.toNat ≤ p.normLast + 1) :
    normalizeShift p cursor = p.normLast + 1 - cursor.toNat := if_pos h

theorem normalizeShift_of_not_le {p : Config.Params} {cursor : Cursor} (h : ¬ cursor.toNat ≤ p.normLast + 1) :
    normalizeShift p cursor = 0 := if_neg h

/-- Settles O37: each bit by the shift, which is 0 for a cursor past `NORM_LAST + 1`. -/
theorem normalizeMovesEachBitUpByTheShift : Obligations.NormalizeMovesEachBitUpByTheShift := by
  refine fun bits cursor => ⟨fun p q hq => ?_, fun s => rfl⟩
  rw [normalize_getLsbD p bits cursor q hq]
  split
  · next h => rw [normalizeShift_of_le h]
  · next h => simp [normalizeShift_of_not_le h]

/-- R105: at NORM_LAST = 59 every bit of the normalized telegram is a 0 shifted in or one from below the cursor. -/
theorem normalize_congr_below_cursor {p : Config.Params} {bits bits' : Buffer} {cursor : Cursor} (hlast : p.normLast = 59)
    (hle : cursor.toNat ≤ 60) (hbits : ∀ i, i < cursor.toNat → bits.getLsbD i = bits'.getLsbD i) :
    normalize p bits cursor = normalize p bits' cursor := by
  have hshift : normalizeShift p cursor = 60 - cursor.toNat := by rw [normalizeShift_of_le (by omega), hlast]
  refine BitVec.eq_of_getLsbD_eq fun q hq => ?_
  rw [normalize_getLsbD p bits cursor q hq, normalize_getLsbD p bits' cursor q hq, hshift]
  by_cases hq' : 60 - cursor.toNat ≤ q
  · rw [hbits _ (by omega)]
  · simp [hq']

/-- R104: a last written bit comes to stand at position NORM_LAST. -/
theorem normalize_getLsbD_normLast {p : Config.Params} {cursor : Cursor} (hlast : p.normLast < 60)
    (hpos : 0 < cursor.toNat) (hle : cursor.toNat ≤ p.normLast + 1) (bits : Buffer) :
    (normalize p bits cursor).getLsbD p.normLast = bits.getLsbD (cursor.toNat - 1) := by
  have hshift : p.normLast + 1 - cursor.toNat ≤ p.normLast := by omega
  have hfrom : p.normLast - (p.normLast + 1 - cursor.toNat) = cursor.toNat - 1 := by omega
  rw [normalize_getLsbD p bits cursor _ hlast, normalizeShift_of_le hle, hfrom, decide_eq_true hshift, Bool.true_and]

/-- Settles O38: the normalized telegram reads the buffer below the cursor alone. -/
theorem staleBitsAreDroppedByNormalize : Obligations.StaleBitsAreDroppedByNormalize := by
  intro p bits bits' cursor hlast hpos hle hbits
  have hwritten := normalize_getLsbD_normLast (p := p) (by omega) hpos (by omega) bits
  rw [hlast] at hwritten
  exact ⟨normalize_congr_below_cursor hlast hle hbits, hwritten⟩

/-! ## SNAP after a finalize (R107) -/

/-- R129: an edge that reports a finalize's code leaves the buffer empty. -/
theorem edgeStep_finalize_bits {lv : Level} {ts : Nat} {s : State} {k : Status}
    (hk : (edgeStep lv ts s).out.status = some k) (hf : k.isFinalize = true) : (edgeStep lv ts s).bits = 0 := by
  rcases phase_cases s with hp | hp
  · rw [edgeStep_idle hp] at hk
    cases hk
    cases hf
  · obtain rfl := Option.some.inj ((edgeStep_status hp lv ts).symm.trans hk)
    rw [edgeStep_outcome hp lv ts rfl, State.moveTiming_bits, State.driveStatus_bits]
    exact (applyOutcome_finalize_empty hf).1

/-- Settles O59: the edge kept the INIT, so SNAP completes, and it shows the emptied buffer. -/
theorem snapAfterFinalizeReadsZero : Obligations.SnapAfterFinalizeReadsZero := by
  intro lv ts s t k ht hk hf
  obtain ⟨hi, rfl⟩ := exec_edge_next ht
  exact ⟨_, exec_snap (by simpa using hi), rfl, edgeStep_finalize_bits hk hf⟩

end Sys2Proof.Machine

namespace Sys2Proof.Machine

/-! ## BCD (R123, R124) -/

theorem exec_bcd {w : Nat} (r : BitVec w) (s : State) :
    exec (.bcd w r) s = .next { s with returned := .decimal (r.toNat - r.toNat / 16 * 6) } := by
  rw [exec, execBcd, bcd_toNat]
  rfl

/-- Settles O44: the bound by `(r / 16) * 6 ≤ (r / 16) * 16 ≤ r`, the value and the zero case by BCD's own laws. -/
theorem bcdTransformIsExact : Obligations.BcdTransformIsExact := fun _ r s =>
  ⟨exec_bcd r s, by omega, bcd_toNat r, bcd_eq_zero r⟩

/-- Settles O45: for `r = 16 h + l` the quotient is `h`, and `16 h + l - 6 h` is `10 h + l`. -/
theorem bcdIsDecimalOnValidDigits : Obligations.BcdIsDecimalOnValidDigits := by
  intro w h l r s hr hl
  have hdecimal : r.toNat - r.toNat / 16 * 6 = 10 * h + l := by omega
  rw [exec_bcd, hdecimal]

/-! ## A finalize that does not reach the parity check (R121, R122) -/

/-- Settles O40: both finalizes are the buffer reset and their code. -/
theorem overflowAndShortTelegramsAreDiscarded : Obligations.OverflowAndShortTelegramsAreDiscarded := by
  refine fun s => ⟨rfl, fun hshort => ?_⟩
  rw [exec_finalize, finalize_short hshort]
  rfl

/-! ## Every finalize leaves the buffer empty (R129) -/

/-- An edge's buffer is the one its outcome leaves; the status and the timing writes keep it. -/
theorem edgeStep_buffer {s : State} (h : s.phase = .tracking) (lv : Level) (ts : Nat) :
    (edgeStep lv ts s).bits = (applyOutcome (s.outcomeAt ts) s.beginStep).1.bits ∧
      (edgeStep lv ts s).cursor = (applyOutcome (s.outcomeAt ts) s.beginStep).1.cursor := by
  rw [edgeStep_outcome h lv ts rfl]
  exact ⟨rfl, rfl⟩

theorem edgeStep_finalize_empty {lv : Level} {ts : Nat} {s : State} {k : Status}
    (hk : (edgeStep lv ts s).out.status = some k) (hf : k.isFinalize = true) :
    (edgeStep lv ts s).bits = 0 ∧ (edgeStep lv ts s).cursor = 0 := by
  rcases phase_cases s with hp | hp
  · rw [edgeStep_idle hp] at hk
    cases hk
    cases hf
  · obtain rfl := Option.some.inj ((edgeStep_status hp lv ts).symm.trans hk)
    obtain ⟨hbits, hcursor⟩ := edgeStep_buffer hp lv ts
    rw [hbits, hcursor]
    exact applyOutcome_finalize_empty hf

/-- A host command is an EDGE step, or one that reports a code of its own and presents no record. -/
theorem exec_decode_edge_or {w : Nat} {c : CmdWord w} {s t : State} (h : exec (decode c) s = .next t) :
    (∃ lv ts, t = edgeStep lv ts s) ∨
      (t.out.recValid = false ∧ ∃ k, t.out.status = some k ∧ k.isFinalize = false) := by
  have hc := decode_cases c
  generalize decode c = i at hc h
  rcases hc with rfl | ⟨lv, ts, rfl⟩ | rfl | rfl
  · cases h
    exact .inr ⟨rfl, .nopDone, rfl, rfl⟩
  · obtain ⟨-, rfl⟩ := exec_edge_next h
    exact .inl ⟨lv, ts, rfl⟩
  · cases h
    exact .inr ⟨rfl, .initDone, rfl, rfl⟩
  · obtain ⟨-, rfl⟩ := exec_snap_next h
    exact .inr ⟨rfl, .snapshotRead, rfl, rfl⟩

/-- Settles O43: of the host commands only EDGE reports a finalize's code, and it does so from the outcome it applied. -/
theorem everyFinalizeEmptiesTheBuffer : Obligations.EveryFinalizeEmptiesTheBuffer := by
  refine ⟨fun r s => ⟨_, exec_finalize r s, finalize_bits r s, finalize_cursor r s⟩, fun w c s t k ht hk hf => ?_⟩
  rcases exec_decode_edge_or ht with ⟨lv, ts, rfl⟩ | ⟨-, l, hl, hlf⟩
  · exact edgeStep_finalize_empty hk hf
  · obtain rfl : k = l := Option.some.inj (hk.symm.trans hl)
    cases hf.symm.trans hlf

/-! ## The checks of a normalized telegram, in the spec's terms (R125 to R127, R140, R145) -/

/-- The accumulator with which the pass folds in the bit at `i`: reset where a segment begins. -/
def ParityScan.accAt (q : ParityScan) (i : Nat) : Bool := if i = 29 ∨ i = 36 then false else q.acc

/-- R140: a run of data bits folds them into the accumulator that its first position starts from, and captures
nothing. -/
theorem foldl_visit_data (n : Buffer) (q : ParityScan) {lo : Nat} (hlo : lo ≠ 28 ∧ lo ≠ 35 ∧ lo ≠ 58) (count : Nat)
    (h : ∀ i < lo + count + 1, lo < i → i ∉ [28, 29, 35, 36, 58]) :
    (List.range' lo (count + 1)).foldl (ParityScan.visit n) q =
      { q with acc := q.accAt lo ^^ xorBits n lo (count + 1) } := by
  induction count with
  | zero => simp [ParityScan.visit, ParityScan.accAt, xorBits, hlo]
  | succ count ih =>
    have hlast := h (lo + (count + 1)) (by omega) (by omega)
    simp only [List.mem_cons, List.not_mem_nil, or_false, not_or] at hlast
    rw [List.range'_1_concat, List.foldl_concat, ih fun i hi => h i (by omega)]
    simp [ParityScan.visit, hlast, xorBits]

/-- R140: the tree over a segment is what the pass has accumulated when it comes to the segment's parity bit. -/
theorem parityPass_eq_parity (n : Buffer) : parityPass n = parity n := by
  have hsegments : List.range' 21 39 =
      List.range' 21 7 ++ 28 :: (List.range' 29 6 ++ 35 :: (List.range' 36 22 ++ [58, 59])) := by decide
  rw [parityPass, hsegments]
  simp only [List.foldl_append, List.foldl_cons, List.foldl_nil]
  rw [foldl_visit_data n _ (by decide) 6 (by decide), foldl_visit_data n _ (by decide) 5 (by decide),
    foldl_visit_data n _ (by decide) 21 (by decide)]
  simp [ParityScan.visit, ParityScan.accAt, parity]

theorem Parities.flags_getLsbD (q : Parities) :
    q.flags.getLsbD 2 = q.minute ∧ q.flags.getLsbD 1 = q.hour ∧ q.flags.getLsbD 0 = q.date := by
  obtain ⟨minute, hour, date⟩ := q
  revert minute hour date
  decide

theorem telegramField_toNat (n : Buffer) (offset width : Nat) :
    (telegramField n offset width).toNat = n.toNat / 2 ^ offset % 2 ^ width := by
  rw [telegramField, BitVec.toNat_setWidth, BitVec.toNat_ushiftRight, Nat.shiftRight_eq_div_pow]

/-- R123, R125: a BCD field of the telegram, decoded. -/
theorem bcd_telegramField_toNat (n : Buffer) (offset width : Nat) :
    (bcd (telegramField n offset width)).toNat =
      n.toNat / 2 ^ offset % 2 ^ width - n.toNat / 2 ^ offset % 2 ^ width / 16 * 6 := by
  rw [bcd_toNat, telegramField_toNat]

theorem telegramField_eq_zero {n : Buffer} {offset width : Nat} :
    telegramField n offset width = 0 ↔ n.toNat / 2 ^ offset % 2 ^ width = 0 := by
  rw [← BitVec.toNat_inj, telegramField_toNat]
  simp

/-- R126: the three computed parities equal the stored bits. -/
def ParityPasses (n : Buffer) : Prop :=
  (parityPass n).minute = n.getLsbD 28 ∧ (parityPass n).hour = n.getLsbD 35 ∧ (parityPass n).date = n.getLsbD 58

theorem parityMatches_iff {n : Buffer} : parityMatches n = true ↔ ParityPasses n := by
  simp [parityMatches, ParityPasses, parityPass_eq_parity, minuteParityBit, hourParityBit, dateParityBit, and_assoc]

/-- R127: the raw month and year are not 0. -/
def DatePasses (n : Buffer) : Prop :=
  n.toNat / 2 ^ 45 % 2 ^ 5 ≠ 0 ∧ n.toNat / 2 ^ 50 % 2 ^ 8 ≠ 0

/-- R127: the decoded month and year are 0 only where the raw ones are. -/
theorem dateOk_unpack_iff {n : Buffer} : dateOk (unpack n).record = true ↔ DatePasses n := by
  have hmonth : (unpack n).record.month = 0 ↔ n.toNat / 2 ^ 45 % 2 ^ 5 = 0 :=
    (bcd_eq_zero _).trans telegramField_eq_zero
  have hyear : (unpack n).record.year = 0 ↔ n.toNat / 2 ^ 50 % 2 ^ 8 = 0 :=
    (bcd_eq_zero _).trans telegramField_eq_zero
  rw [dateOk_iff, DatePasses, Ne, Ne, hmonth, hyear]

theorem verdict_of_parity_fails {n : Buffer} (h : ¬ ParityPasses n) : verdict n = .parityMismatch := by
  rw [← parityMatches_iff] at h
  simp [verdict, h]

theorem verdict_of_date_fails {n : Buffer} (hp : ParityPasses n) (hd : ¬ DatePasses n) :
    verdict n = .invalidDateFields := by
  rw [← dateOk_unpack_iff] at hd
  simp [verdict, parityMatches_iff.mpr hp, hd]

theorem verdict_of_passes {n : Buffer} (hp : ParityPasses n) (hd : DatePasses n) : verdict n = .telegramDelivered := by
  simp [verdict, parityMatches_iff.mpr hp, dateOk_unpack_iff.mpr hd]

theorem verdict_telegramDelivered_iff {n : Buffer} :
    verdict n = .telegramDelivered ↔ ParityPasses n ∧ DatePasses n := by
  refine ⟨fun h => ?_, fun ⟨hp, hd⟩ => verdict_of_passes hp hd⟩
  rcases verdict_cases n with ⟨-, e⟩ | ⟨-, -, e⟩ | ⟨hp, hd, -⟩
  · cases e.symm.trans h
  · cases e.symm.trans h
  · exact ⟨parityMatches_iff.mp hp, dateOk_unpack_iff.mp hd⟩

/-! ## The decode path (R126 to R128, R145) -/

theorem State.decodeTelegram_writes_pf (s : State) (n : Buffer) : (s.decodeTelegram n).pf = (parity n).flags := by
  by_cases hv : verdict n = .telegramDelivered
  · rw [State.decodeTelegram_delivered hv]; rfl
  · rw [State.decodeTelegram_discarded hv]; rfl

theorem State.decodeTelegram_delivered_out {n : Buffer} (h : verdict n = .telegramDelivered) (s : State) :
    (s.decodeTelegram n).out = { s.out with recValid := true, record := (unpack n).record } := by
  rw [State.decodeTelegram_delivered h]
  rfl

theorem State.decodeTelegram_discarded_out {n : Buffer} (h : verdict n ≠ .telegramDelivered) (s : State) :
    (s.decodeTelegram n).out = s.out := by
  rw [State.decodeTelegram_discarded h]
  rfl

/-- What the decode path leaves alone: everything but the buffer, `pf` and the ports. -/
theorem State.decodeTelegram_frame (s : State) (n : Buffer) :
    s.decodeTelegram n =
      { s with bits := 0, cursor := 0, pf := (s.decodeTelegram n).pf, out := (s.decodeTelegram n).out } := by
  by_cases hv : verdict n = .telegramDelivered
  · rw [State.decodeTelegram_delivered hv]; rfl
  · rw [State.decodeTelegram_discarded hv]; rfl

theorem exec_finalize_long {s : State} {n : Buffer} (h : s.params.minCursor < s.cursor.toNat)
    (hn : n = normalize s.params s.bits s.cursor) :
    exec (.finalize .sync) s = .next ((s.decodeTelegram n).reply (.status (verdict n))) := by
  rw [exec_finalize, finalize_long h, hn]

/-- Settles O41: the three verdicts on the normalized telegram, and the frame of the decode path. -/
theorem longTelegramIsChecked : Obligations.LongTelegramIsChecked := by
  intro s hlong
  obtain ⟨n, hn⟩ : ∃ n, n = normalize s.params s.bits s.cursor := ⟨_, rfl⟩
  have hpf : ((s.decodeTelegram n).reply (.status (verdict n))).pf = (parityPass n).flags :=
    parityPass_eq_parity n ▸ s.decodeTelegram_writes_pf n
  obtain ⟨hpm, hph, hpd⟩ := (parityPass n).flags_getLsbD
  refine ⟨n, _, _, hn, rfl, exec_finalize_long hlong hn, ?_, hpf ▸ hpm, hpf ▸ hph, hpf ▸ hpd, fun hfails => ?_,
    fun hminute hhour hdate => ⟨fun hzero => ?_, fun hmonth hyear => ?_⟩⟩
  · exact congrArg (State.reply · (.status (verdict n))) (s.decodeTelegram_frame n)
  · have hv : verdict n = .parityMismatch :=
      verdict_of_parity_fails (by rwa [ParityPasses, not_and_or, not_and_or])
    exact ⟨congrArg _ hv, State.decodeTelegram_discarded_out (by simp [hv]) s⟩
  · have hv : verdict n = .invalidDateFields := verdict_of_date_fails ⟨hminute, hhour, hdate⟩ fun ⟨hmonth, hyear⟩ =>
      hzero.elim hmonth hyear
    exact ⟨congrArg _ hv, State.decodeTelegram_discarded_out (by simp [hv]) s⟩
  · have hv : verdict n = .telegramDelivered := verdict_of_passes ⟨hminute, hhour, hdate⟩ ⟨hmonth, hyear⟩
    rw [State.reply_out, State.decodeTelegram_delivered_out hv]
    exact ⟨congrArg _ hv, rfl⟩

/-! ## Where a presented record comes from (R128, R134) -/

/-- The buffer holds a telegram that a sync finalize delivers as the record `r`. -/
def HoldsRecord (s : State) (r : Record) : Prop :=
  s.params.minCursor < s.cursor.toNat ∧ verdict (normalize s.params s.bits s.cursor) = .telegramDelivered ∧
    r = (unpack (normalize s.params s.bits s.cursor)).record

theorem not_holdsRecord_of_cursor_zero {s : State} (h : s.cursor = 0) (r : Record) : ¬ HoldsRecord s r := by
  rintro ⟨hlong, -⟩
  simp [h] at hlong

theorem finalize_presents {r : FinalizeReason} {s : State} (hs : s.out.recValid = false)
    (h : (finalize r s).1.out.recValid = true) : HoldsRecord s (finalize r s).1.out.record := by
  rcases finalize_cases r s with ⟨-, e⟩ | ⟨-, -, e⟩ | ⟨-, -, n, -, -, e⟩ | ⟨-, hlong, n, rfl, hv, e⟩
  · simp [e, hs] at h
  · simp [e, hs] at h
  · simp [e, hs] at h
  · rw [e]
    exact ⟨hlong, hv, rfl⟩

theorem append_presents_nothing (b : Bool) {s : State} (hs : s.out.recValid = false) :
    (append b s).1.out.recValid = false := by
  obtain ⟨-, hout⟩ := append_out b s
  rw [hout, hs]

/-- Of the outcomes only the minute sync presents a record. -/
theorem applyOutcome_presents {o : EdgeOutcome} {s : State} (hs : s.out.recValid = false)
    (h : (applyOutcome o s).1.out.recValid = true) : HoldsRecord s (applyOutcome o s).1.out.record := by
  cases o with
  | minuteSync => exact finalize_presents hs h
  | bounce => cases hs.symm.trans h
  | none => cases hs.symm.trans h
  | one => cases (append_presents_nothing true hs).symm.trans h
  | zero => cases (append_presents_nothing false hs).symm.trans h
  | ignore => cases hs.symm.trans h

theorem edgeStep_presents {lv : Level} {ts : Nat} {s : State} (h : (edgeStep lv ts s).out.recValid = true) :
    HoldsRecord s (edgeStep lv ts s).out.record := by
  rcases phase_cases s with hp | hp
  · rw [edgeStep_idle hp] at h
    cases h
  · rw [edgeStep_outcome hp lv ts rfl] at h ⊢
    exact applyOutcome_presents (s := s.beginStep) rfl h

/-- A host command presents a record only by delivering the telegram that stands in the buffer. -/
theorem exec_decode_presents {w : Nat} {c : CmdWord w} {s t : State} (ht : exec (decode c) s = .next t)
    (h : t.out.recValid = true) : HoldsRecord s t.out.record := by
  rcases exec_decode_edge_or ht with ⟨lv, ts, rfl⟩ | ⟨hnone, -⟩
  · exact edgeStep_presents h
  · cases hnone.symm.trans h

/-- R33: from an emptied buffer no command presents a record. -/
theorem exec_decode_no_record {w : Nat} {c : CmdWord w} {s t : State} (hs : s.cursor = 0)
    (ht : exec (decode c) s = .next t) : t.out.recValid = false ∧ t.out.record = Record.zero := by
  have hnone : t.out.recValid = false :=
    Bool.eq_false_iff.mpr fun h => not_holdsRecord_of_cursor_zero hs _ (exec_decode_presents ht h)
  obtain ⟨-, hzero, -⟩ := undrivenPortsAreAtTheirDefaults.1 w c s t ht
  exact ⟨hnone, hzero hnone⟩

/-- Settles O42: delivery drives the unpacked record, and the buffer it leaves is empty. -/
theorem passingTelegramIsDeliveredDecoded : Obligations.PassingTelegramIsDeliveredDecoded := by
  intro s n hlong hn hminute hhour hdate hmonth hyear
  have hv : verdict n = .telegramDelivered := verdict_of_passes ⟨hminute, hhour, hdate⟩ ⟨hmonth, hyear⟩
  have hcursor : ((s.decodeTelegram n).reply (.status (verdict n))).cursor = 0 :=
    congrArg State.cursor (s.decodeTelegram_frame n)
  refine ⟨_, exec_finalize_long hlong hn, congrArg _ hv, ?_⟩
  rw [State.reply_out, State.decodeTelegram_delivered_out hv]
  exact ⟨rfl, bcd_telegramField_toNat n 21 7, bcd_telegramField_toNat n 29 6, bcd_telegramField_toNat n 36 6,
    bcd_telegramField_toNat n 45 5, bcd_telegramField_toNat n 50 8, telegramField_toNat n 17 2,
    fun _ _ _ hu => exec_decode_no_record hcursor hu⟩

/-- R127: the record of a delivered telegram has a date. -/
theorem HoldsRecord.date_ne_zero {s : State} {r : Record} (h : HoldsRecord s r) :
    1 ≤ r.month.toNat ∧ 1 ≤ r.year.toNat := by
  obtain ⟨-, hv, rfl⟩ := h
  obtain ⟨-, hdate⟩ := verdict_telegramDelivered_iff.mp hv
  obtain ⟨hmonth, hyear⟩ := (dateOk_iff _).mp (dateOk_unpack_iff.mpr hdate)
  exact ⟨BitVec.toNat_pos_of_ne_zero hmonth, BitVec.toNat_pos_of_ne_zero hyear⟩

/-- Settles O49: an idle step presents no record, and a command presents one only by delivering it. -/
theorem deliveredDatesAreNonZero : Obligations.DeliveredDatesAreNonZero := by
  intro s t ht h
  cases hc : s.cmds with
  | nil =>
    rw [step_nil hc] at ht
    cases ht
    cases h
  | cons c rest =>
    rw [step_cons hc] at ht
    exact (exec_decode_presents ht h).date_ne_zero

end Sys2Proof.Machine

namespace Sys2Proof.Machine

/-! ## PARITY's trees (R140) -/

theorem xorBits_eq_foldl (n : Buffer) (lo count : Nat) :
    xorBits n lo count = ((List.range' lo count).map n.getLsbD).foldl xor false := by
  induction count with
  | zero => rfl
  | succ count ih =>
    rw [List.range'_1_concat, List.map_append, List.foldl_append, ← ih]
    rfl

/-- Settles O46: the pass captures the trees, and each tree is the fold of its bits. -/
theorem parityTreesAreTheSinglePass : Obligations.ParityTreesAreTheSinglePass := by
  intro n s
  rw [parityPass_eq_parity]
  exact ⟨rfl, xorBits_eq_foldl n 21 7, xorBits_eq_foldl n 29 6, xorBits_eq_foldl n 36 22⟩

/-! ## Even parity of a segment with its parity bit (R144) -/

theorem xorBits_eq_decide_odd (n : Buffer) (lo count : Nat) :
    xorBits n lo count = decide (onesFrom n lo count % 2 = 1) := by
  induction count with
  | zero => rfl
  | succ count ih =>
    rw [xorBits, onesFrom, ih]
    cases n.getLsbD (lo + count) with
    | false => simp
    | true =>
      rw [Bool.xor_true, ← decide_not, decide_eq_decide, Bool.toNat_true, Nat.succ_mod_two_eq_one_iff,
        Nat.mod_two_not_eq_one]

/-- A tree equals the parity bit that follows its segment exactly when the XOR of both is 0. -/
theorem xorBits_eq_parityBit_iff {n : Buffer} {lo count : Nat} :
    xorBits n lo count = n.getLsbD (lo + count) ↔ xorBits n lo (count + 1) = false := by
  rw [xorBits, bne_eq_false_iff_eq]

theorem xorBits_eq_parityBit_iff_even {n : Buffer} {lo count : Nat} :
    xorBits n lo count = n.getLsbD (lo + count) ↔ onesFrom n lo (count + 1) % 2 = 0 := by
  rw [xorBits_eq_parityBit_iff, xorBits_eq_decide_odd, decide_eq_false_iff_not, Nat.mod_two_not_eq_one]

/-- Settles O47: each segment's parity bit stands right after its data bits. -/
theorem segmentsPassOnEvenParity : Obligations.SegmentsPassOnEvenParity := fun _ =>
  ⟨xorBits_eq_parityBit_iff_even, xorBits_eq_parityBit_iff_even, xorBits_eq_parityBit_iff_even⟩

/-! ## A flipped bit (R146) -/

theorem flipBit_getLsbD (n : Buffer) {i : Nat} (hi : i < 60) (j : Nat) :
    (flipBit n i).getLsbD j = (n.getLsbD j ^^ decide (i = j)) := by
  rw [flipBit, BitVec.getLsbD_xor, BitVec.getLsbD_twoPow, decide_eq_true hi, Bool.true_and]

/-- Flipping a bit flips the XOR of a range exactly when the bit is in it. -/
theorem xorBits_flipBit (n : Buffer) {i : Nat} (hi : i < 60) (lo count : Nat) :
    xorBits (flipBit n i) lo count = (xorBits n lo count ^^ decide (lo ≤ i ∧ i < lo + count)) := by
  induction count with
  | zero => simp [xorBits]
  | succ count ih =>
    have hin : decide (lo ≤ i ∧ i < lo + (count + 1)) =
        (decide (lo ≤ i ∧ i < lo + count) ^^ decide (i = lo + count)) := by
      by_cases hlast : i = lo + count
      · simp [hlast]
      · simp only [hlast, decide_false, Bool.xor_false, decide_eq_decide]
        omega
    rw [xorBits, xorBits, ih, flipBit_getLsbD n hi, hin]
    simp only [Bool.xor_assoc, Bool.xor_left_comm]

/-- R126, R144: the check passes when each segment XORs to 0 with its parity bit: 21 to 28, 29 to 35, 36 to 58. -/
theorem parityPasses_iff_xorBits {n : Buffer} :
    ParityPasses n ↔ xorBits n 21 8 = false ∧ xorBits n 29 7 = false ∧ xorBits n 36 23 = false := by
  rw [ParityPasses, parityPass_eq_parity]
  exact and_congr xorBits_eq_parityBit_iff (and_congr xorBits_eq_parityBit_iff xorBits_eq_parityBit_iff)

/-- The three segments with their parity bits fill 21 to 58. -/
theorem parityPasses_flipBit_iff {n : Buffer} {i : Nat} (h : ParityPasses n) (hi : i < 60) :
    ParityPasses (flipBit n i) ↔ ¬ (21 ≤ i ∧ i ≤ 58) := by
  obtain ⟨hminute, hhour, hdate⟩ := parityPasses_iff_xorBits.mp h
  rw [parityPasses_iff_xorBits, xorBits_flipBit n hi, xorBits_flipBit n hi, xorBits_flipBit n hi, hminute, hhour, hdate]
  simp only [Bool.false_xor, decide_eq_false_iff_not]
  omega

theorem telegramField_getLsbD (n : Buffer) (offset width k : Nat) :
    (telegramField n offset width).getLsbD k = (decide (k < width) && n.getLsbD (offset + k)) := by
  rw [telegramField, BitVec.getLsbD_setWidth, BitVec.getLsbD_ushiftRight]

/-- A field changes exactly when the flipped bit is one of its own. -/
theorem telegramField_flipBit_eq_iff (n : Buffer) {i : Nat} (hi : i < 60) (offset width : Nat) :
    telegramField (flipBit n i) offset width = telegramField n offset width ↔ ¬ (offset ≤ i ∧ i < offset + width) := by
  refine ⟨fun h ⟨hlo, hhi⟩ => ?_, fun h => BitVec.eq_of_getLsbD_eq fun k hk => ?_⟩
  · have hbit : (telegramField (flipBit n i) offset width).getLsbD (i - offset) =
        (telegramField n offset width).getLsbD (i - offset) := by rw [h]
    have hwidth : i - offset < width := by omega
    rw [telegramField_getLsbD, telegramField_getLsbD, Nat.add_sub_cancel' hlo, flipBit_getLsbD n hi] at hbit
    simp [hwidth] at hbit
  · have hk' : i ≠ offset + k := by omega
    simp [telegramField_getLsbD, flipBit_getLsbD n hi, hk']

/-- The record's fields other than the zone lie in 21 to 58. -/
theorem unpack_record_flipBit (n : Buffer) {i : Nat} (hi : i < 60) (hout : ¬ (21 ≤ i ∧ i ≤ 58)) :
    (unpack (flipBit n i)).record = { (unpack n).record with zone := zoneField (flipBit n i) } := by
  have hfield : ∀ offset width, 21 ≤ offset → offset + width ≤ 59 →
      telegramField (flipBit n i) offset width = telegramField n offset width :=
    fun offset width _ _ => (telegramField_flipBit_eq_iff n hi offset width).mpr (by omega)
  simp [unpack, minuteField, hourField, dayField, monthField, yearField, hfield]

theorem verdict_flipBit_in {n : Buffer} {i : Nat} (h : verdict n = .telegramDelivered) (hi : i < 60)
    (hin : 21 ≤ i ∧ i ≤ 58) : verdict (flipBit n i) = .parityMismatch := by
  obtain ⟨hp, -⟩ := verdict_telegramDelivered_iff.mp h
  exact verdict_of_parity_fails fun hf => (parityPasses_flipBit_iff hp hi).mp hf hin

theorem verdict_flipBit_out {n : Buffer} {i : Nat} (h : verdict n = .telegramDelivered) (hi : i < 60)
    (hout : ¬ (21 ≤ i ∧ i ≤ 58)) : verdict (flipBit n i) = .telegramDelivered := by
  obtain ⟨hp, hd⟩ := verdict_telegramDelivered_iff.mp h
  refine verdict_of_passes ((parityPasses_flipBit_iff hp hi).mpr hout) (dateOk_unpack_iff.mp ?_)
  rw [unpack_record_flipBit n hi hout]
  exact dateOk_unpack_iff.mpr hd

/-! ## Finalizing a full buffer -/

/-- R104: at the full cursor the shift is 0, so the buffer is the normalized telegram as it stands. -/
theorem normalize_full {p : Config.Params} (hlast : p.normLast ≤ 59) (bits : Buffer) : normalize p bits 60 = bits := by
  have hshift : normalizeShift p 60 = 0 := by
    by_cases h : (60 : Cursor).toNat ≤ p.normLast + 1
    · rw [normalizeShift_of_le h]
      exact Nat.sub_eq_zero_of_le (Nat.succ_le_succ hlast)
    · exact normalizeShift_of_not_le h
  rw [normalize, hshift, BitVec.shiftLeft_zero]

/-- R122: a telegram that is too short is not delivered. -/
theorem minCursor_lt_of_delivered {s t : State} (ht : exec (.finalize .sync) s = .next t)
    (h : t.returned = .status .telegramDelivered) : s.params.minCursor < s.cursor.toNat := by
  by_contra hshort
  rw [exec_finalize, finalize_short (Nat.le_of_not_lt hshort)] at ht
  cases ht
  cases h

theorem exec_finalize_full {s : State} (hlast : s.params.normLast ≤ 59) (hlong : s.params.minCursor < 60) (n : Buffer) :
    exec (.finalize .sync) { s with bits := n, cursor := 60 } =
      .next ((State.decodeTelegram { s with bits := n, cursor := 60 } n).reply (.status (verdict n))) :=
  exec_finalize_long hlong (normalize_full hlast n).symm

/-- Settles O48: both telegrams are normalized as they stand, so the two verdicts and the two records are compared. -/
theorem oneFlippedBitSuppressesTheRecord : Obligations.OneFlippedBitSuppressesTheRecord := by
  intro s t n i hlast hi ht hdelivered
  have hlong : s.params.minCursor < 60 := minCursor_lt_of_delivered ht hdelivered
  rw [exec_finalize_full hlast hlong] at ht
  cases ht
  have hv : verdict n = .telegramDelivered := by simpa using hdelivered
  refine ⟨_, exec_finalize_full hlast hlong (flipBit n i), fun hlo hhi => ?_, fun hrange => ?_⟩
  · have hmismatch := verdict_flipBit_in hv hi ⟨hlo, hhi⟩
    exact ⟨congrArg _ hmismatch, State.decodeTelegram_discarded_out (by simp [hmismatch]) _⟩
  · have hout : ¬ (21 ≤ i ∧ i ≤ 58) := by omega
    have hv' := verdict_flipBit_out hv hi hout
    rw [State.reply_out, State.reply_out, State.decodeTelegram_delivered_out hv,
      State.decodeTelegram_delivered_out hv', unpack_record_flipBit n hi hout]
    refine ⟨congrArg _ hv', rfl, (telegramField_flipBit_eq_iff n hi 17 2).trans ?_⟩
    omega

end Sys2Proof.Machine

namespace Sys2Proof.Machine

/-! ## What may run (R155, R176) -/

/-- An instruction with no check of its own that answers a next state. -/
theorem runs_unless_stopped_of_next {i : Instr} {s t : State} (hm : mayRun i s = true) (h : exec i s = .next t) :
    (mayRun i s = true → ∃ t, exec i s = .next t) ∧ (mayRun i s = false → exec i s = .fault .notInitialised) :=
  ⟨fun _ => ⟨t, h⟩, fun hf => by cases hm.symm.trans hf⟩

theorem pulse_runs_unless_stopped (t w : Nat) (s : State) :
    (s.initialised = true → ∃ u, pulse t w s = .next u) ∧
      (s.initialised = false → pulse t w s = .fault .notInitialised) :=
  ⟨fun h => ⟨_, pulse_next h t w⟩, fun h => pulse_fault h t w⟩

/-- Settles O10: the instructions that need an INIT are EDGE, SNAP and the pulses; no other arm can fault. -/
theorem onlyAMissingInitStopsAnInstruction : Obligations.OnlyAMissingInitStopsAnInstruction := by
  intro i s
  cases i with
  | nop => exact runs_unless_stopped_of_next rfl (exec_nop s)
  | edge lv ts => exact ⟨fun h => ⟨_, exec_edge h lv ts⟩, fun h => exec_edge_fault h lv ts⟩
  | init => exact runs_unless_stopped_of_next rfl (exec_init s)
  | snap => exact ⟨fun h => ⟨_, exec_snap h⟩, exec_snap_fault⟩
  | classify k e l => exact runs_unless_stopped_of_next rfl rfl
  | append b => exact runs_unless_stopped_of_next rfl rfl
  | retreat => exact runs_unless_stopped_of_next rfl rfl
  | normalize bits cursor => exact runs_unless_stopped_of_next rfl rfl
  | reset => exact runs_unless_stopped_of_next rfl rfl
  | finalize r => exact runs_unless_stopped_of_next rfl rfl
  | bcd w r => exact runs_unless_stopped_of_next rfl rfl
  | parity n => exact runs_unless_stopped_of_next rfl rfl
  | pulse t w => exact pulse_runs_unless_stopped t w s
  | bit0 t => exact pulse_runs_unless_stopped t bit0Width s
  | bit1 t => exact pulse_runs_unless_stopped t bit1Width s

/-! ## No command reads or writes the queue (R57) -/

theorem finalize_queue (r : FinalizeReason) (s : State) (q : List Nat) :
    finalize r { s with cmds := q } = ({ (finalize r s).1 with cmds := q }, (finalize r s).2) := by
  cases r with
  | overflow => rfl
  | sync =>
    rcases Nat.lt_or_ge s.params.minCursor s.cursor.toNat with h | h
    · rw [finalize_long h, finalize_long (s := { s with cmds := q }) h]
      by_cases hv : verdict (normalize s.params s.bits s.cursor) = .telegramDelivered
      · rw [State.decodeTelegram_delivered hv, State.decodeTelegram_delivered hv]
        rfl
      · rw [State.decodeTelegram_discarded hv, State.decodeTelegram_discarded hv]
        rfl
    · rw [finalize_short h, finalize_short (s := { s with cmds := q }) h]
      rfl

theorem append_queue (b : Bool) (s : State) (q : List Nat) :
    append b { s with cmds := q } = ({ (append b s).1 with cmds := q }, (append b s).2) := by
  rcases Nat.lt_or_ge s.cursor.toNat 60 with h | h
  · rw [append_room b h, append_room (s := { s with cmds := q }) b h]
  · rw [append_full b h, append_full (s := { s with cmds := q }) b h]
    rfl

theorem applyOutcome_queue (o : EdgeOutcome) (s : State) (q : List Nat) :
    applyOutcome o { s with cmds := q } = ({ (applyOutcome o s).1 with cmds := q }, (applyOutcome o s).2) := by
  cases o with
  | minuteSync => exact finalize_queue .sync s q
  | bounce => rfl
  | none => rfl
  | one => exact append_queue true s q
  | zero => exact append_queue false s q
  | ignore => rfl

theorem edgeStep_queue (lv : Level) (ts : Nat) (s : State) (q : List Nat) :
    edgeStep lv ts { s with cmds := q } = { edgeStep lv ts s with cmds := q } := by
  rcases phase_cases s with h | h
  · rw [edgeStep_idle h, edgeStep_idle (s := { s with cmds := q }) h]
    rfl
  · have happly := applyOutcome_queue (s.outcomeAt ts) s.beginStep q
    rw [edgeStep_outcome h lv ts rfl, edgeStep_outcome (s := { s with cmds := q }) (o := s.outcomeAt ts) h lv ts rfl,
      show State.beginStep { s with cmds := q } = { s.beginStep with cmds := q } from rfl, happly]
    rfl

/-- A command has its effect whatever words are lined up behind it, and leaves them lined up. -/
theorem exec_decode_queue {w : Nat} {c : CmdWord w} {s t : State} (h : exec (decode c) s = .next t) (q : List Nat) :
    exec (decode c) { s with cmds := q } = .next { t with cmds := q } := by
  have hc := decode_cases c
  generalize decode c = i at hc h ⊢
  rcases hc with rfl | ⟨lv, ts, rfl⟩ | rfl | rfl
  · cases h
    rfl
  · obtain ⟨hi, rfl⟩ := exec_edge_next h
    rw [exec_edge (s := { s with cmds := q }) hi, edgeStep_queue]
  · cases h
    rfl
  · obtain ⟨hi, rfl⟩ := exec_snap_next h
    exact exec_snap hi

/-- The first word of the queue is performed and taken off. -/
theorem step_queue {c : Nat} {s t : State} (h : exec (decode (portWord s.params.W c)) s = .next t) (q : List Nat) :
    step { s with cmds := c :: q } = .next { t with cmds := q } :=
  (step_cons rfl).trans (exec_decode_queue h q)

/-- Settles O12: by induction on the words, each of which is one step of the machine on its queue. -/
theorem observedRunIsTheRunOfTheQueue : Obligations.ObservedRunIsTheRunOfTheQueue := by
  intro cs rest
  induction cs with
  | nil =>
    intro s u outs h
    cases h
    exact ⟨rfl, rfl⟩
  | cons c cs ih =>
    intro s u outs h
    obtain ⟨t, tail, ht, htail, rfl⟩ := observe_cons_next h
    obtain ⟨hlen, hrun⟩ := ih t u tail htail
    exact ⟨congrArg (· + 1) hlen, (run_next (step_queue ht (cs ++ rest)) cs.length).trans hrun⟩

/-! ## The step, and the commands NOP, INIT and SNAP (R150 to R154) -/

/-- Settles O8: a step is its command on the rest of the queue, and without a command it clears the ports alone. -/
theorem stepRunsTheDecodedCommand : Obligations.StepRunsTheDecodedCommand :=
  ⟨fun _ _ _ h => step_cons h, fun _ h => step_nil h⟩

/-- Settles O13: NOP begins a step and drives its status. -/
theorem nopWritesNoRegister : Obligations.NopWritesNoRegister :=
  ⟨fun _ _ h => decode_nop h, exec_nop⟩

/-- Settles O14: INIT begins a step, writes every register, and drives its status. -/
theorem initGivesTheResetValues : Obligations.InitGivesTheResetValues :=
  ⟨fun _ _ h => decode_init h, exec_init⟩

/-- Settles O15: SNAP begins a step and drives the snapshot ports and its status, if there was an INIT. -/
theorem snapShowsTheRawBuffer : Obligations.SnapShowsTheRawBuffer :=
  ⟨fun _ _ h => decode_snap h, fun _ => ⟨exec_snap, exec_snap_fault⟩⟩

/-! ## A missing INIT (R155, R172) -/

/-- R172: past a fault the command is taken and the fault recorded (log 10). -/
theorem advance_fault {s : State} {r : Fault} {c : Nat} {rest : List Nat} (hq : s.cmds = c :: rest)
    (h : step s = .fault r) : advance s = State.recordFault { s with cmds := rest } r := by
  rw [advance, h, hq]
  rfl

/-- Settles O16: both commands find no INIT before them, and the run carries on past their fault. -/
theorem edgeAndSnapFaultBeforeInit : Obligations.EdgeAndSnapFaultBeforeInit := by
  intro s lv ts hi
  refine ⟨exec_edge_fault hi lv ts, exec_snap_fault hi, fun c rest hq hd => advance_fault hq ?_⟩
  rw [step_cons hq]
  rcases hd with hd | hd
  · rw [hd]
    exact exec_edge_fault (s := { s with cmds := rest }) hi lv ts
  · rw [hd]
    exact exec_snap_fault (s := { s with cmds := rest }) hi

/-! ## The codes on the status port, and the ports each command drives (R66, R157) -/

theorem Status.code_le (k : Status) : k.code.toNat ≤ 11 := by
  cases k <;> decide

theorem Status.code_eq_delivered_iff (k : Status) : k.code = 11 ↔ k = .telegramDelivered := by
  cases k <;> decide

theorem Status.three_le_code_of_isFinalize {k : Status} (h : k.isFinalize = true) : 3 ≤ k.code.toNat := by
  revert h
  cases k <;> decide

theorem append_three_le_code (b : Bool) (s : State) : 3 ≤ (append b s).2.code.toNat := by
  rcases append_status b s with h | h
  · exact Status.three_le_code_of_isFinalize h
  · rw [h]
    decide

theorem applyOutcome_three_le_code (o : EdgeOutcome) (s : State) : 3 ≤ (applyOutcome o s).2.code.toNat := by
  cases o with
  | minuteSync => exact Status.three_le_code_of_isFinalize (finalize_isFinalize .sync s)
  | bounce => exact (by decide : 3 ≤ Status.bounceCorrected.code.toNat)
  | none => exact (by decide : 3 ≤ Status.edgeRecorded.code.toNat)
  | one => exact append_three_le_code true s
  | zero => exact append_three_le_code false s
  | ignore => exact (by decide : 3 ≤ Status.noiseIgnored.code.toNat)

theorem edgeStep_three_le_code {lv : Level} {ts : Nat} {s : State} {k : Status}
    (h : (edgeStep lv ts s).out.status = some k) : 3 ≤ k.code.toNat := by
  rcases phase_cases s with hp | hp
  · rw [edgeStep_idle hp] at h
    cases h
    decide
  · obtain rfl := Option.some.inj ((edgeStep_status hp lv ts).symm.trans h)
    exact applyOutcome_three_le_code _ _

/-- EDGE drives a status, and a record exactly with the delivering one. -/
theorem edgeStep_status_recValid (lv : Level) (ts : Nat) (s : State) :
    ∃ k, (edgeStep lv ts s).out.status = some k ∧ ((edgeStep lv ts s).out.recValid = true ↔ k = .telegramDelivered) := by
  rcases edgeStep_out lv ts s with ⟨k, hk, e⟩ | ⟨rec, e⟩
  · exact ⟨k, by rw [e]; rfl, by simp [e, hk, Outputs.only, Outputs.defaults]⟩
  · exact ⟨.telegramDelivered, by rw [e], by simp [e]⟩

/-- Settles O50: NOP, INIT and SNAP drive their one status, EDGE one that its outcome or a finalize gives. -/
theorem eachCommandDrivesItsOutputs : Obligations.EachCommandDrivesItsOutputs := by
  refine ⟨rfl, fun w c s t h => ?_⟩
  rcases op_cases (opField c) with hop | hop | hop | hop
  · rw [decode_nop hop] at h
    cases h
    exact ⟨.nopDone, rfl, by simp [hop, Status.code, Outputs.defaults]⟩
  · rw [decode_edge hop] at h
    obtain ⟨-, rfl⟩ := exec_edge_next h
    obtain ⟨k, hk, hrec⟩ := edgeStep_status_recValid (lvField c) (tsField c).toNat s
    exact ⟨k, hk, by simp [hop], by simp [hop], by simp [hop], fun _ => ⟨edgeStep_three_le_code hk, k.code_le⟩,
      hrec.trans k.code_eq_delivered_iff.symm, by simp [hop]⟩
  · rw [decode_init hop] at h
    cases h
    exact ⟨.initDone, rfl, by simp [hop, Status.code, Outputs.defaults]⟩
  · rw [decode_snap hop] at h
    obtain ⟨-, rfl⟩ := exec_snap_next h
    exact ⟨.snapshotRead, rfl, by simp [hop, Status.code, Outputs.defaults]⟩

end Sys2Proof.Machine

namespace Sys2Proof.Machine

/-! ## No instruction writes the fault record (R172) -/

@[simp] theorem finalize_keeps_fault (r : FinalizeReason) (s : State) : (finalize r s).1.fault = s.fault := by
  obtain ⟨_, _, e, -⟩ := finalize_frame r s
  rw [e]

@[simp] theorem append_keeps_fault (b : Bool) (s : State) : (append b s).1.fault = s.fault := by
  rcases append_cases b s with ⟨-, e⟩ | ⟨-, e⟩
  · rw [e]
  · rw [e]; rfl

theorem pulse_keeps_fault {s u : State} {t w : Nat} (h : pulse t w s = .next u) : u.fault = s.fault := by
  cases hi : s.initialised with
  | true =>
    rw [pulse_next hi] at h
    cases h
    simp
  | false => rw [pulse_fault hi] at h; cases h

theorem exec_keeps_fault {i : Instr} {s t : State} (h : exec i s = .next t) : t.fault = s.fault := by
  cases i with
  | nop => cases h; rfl
  | edge lv ts => obtain ⟨-, rfl⟩ := exec_edge_next h; exact edgeStep_fault lv ts s
  | init => cases h; rfl
  | snap => obtain ⟨-, rfl⟩ := exec_snap_next h; rfl
  | classify k e l => cases h; rfl
  | append b => cases h; exact append_keeps_fault b s
  | retreat => cases h; rfl
  | normalize bits cursor => cases h; rfl
  | reset => cases h; rfl
  | finalize r => cases h; exact finalize_keeps_fault r s
  | bcd w r => cases h; rfl
  | parity n => cases h; rfl
  | pulse t w => exact pulse_keeps_fault h
  | bit0 t => exact pulse_keeps_fault h
  | bit1 t => exact pulse_keeps_fault h

theorem step_keeps_fault {s t : State} (h : step s = .next t) : t.fault = s.fault := by
  cases hc : s.cmds with
  | nil => rw [step_nil hc] at h; cases h; rfl
  | cons c rest => rw [step_cons hc] at h; exact (exec_keeps_fault h).trans rfl

/-! ## After an INIT nothing is fatal (R170) -/

/-- After an INIT every command the host can present completes, and the INIT still stands. -/
theorem exec_decode_of_initialised {w : Nat} (c : CmdWord w) {s : State} (h : s.initialised = true) :
    ∃ t, exec (decode c) s = .next t ∧ t.initialised = true := by
  rcases decode_cases c with e | ⟨lv, ts, e⟩ | e | e
  · rw [e]; exact ⟨_, exec_nop s, h⟩
  · rw [e]; exact ⟨_, exec_edge h lv ts, (edgeStep_initialised lv ts s).trans h⟩
  · rw [e]; exact ⟨_, exec_init s, rfl⟩
  · rw [e]; exact ⟨_, exec_snap h, h⟩

/-- One step after an INIT: it has a next state, whatever is lined up, and the INIT still stands. -/
theorem step_of_initialised {s : State} (h : s.initialised = true) : ∃ t, step s = .next t ∧ t.initialised = true := by
  cases hc : s.cmds with
  | nil => exact ⟨s.beginStep, step_nil hc, h⟩
  | cons c rest => rw [step_cons hc]; exact exec_decode_of_initialised _ h

/-- Settles O11: by induction on the steps, each of which completes, keeps the INIT and leaves the record alone. -/
theorem runNeverStopsOnceInitialised : Obligations.RunNeverStopsOnceInitialised := by
  intro n
  induction n with
  | zero => exact fun s h => ⟨s, run_zero s, h, rfl⟩
  | succ n ih =>
    intro s h
    obtain ⟨t, hstep, ht⟩ := step_of_initialised h
    obtain ⟨u, hrun, hu, hfault⟩ := ih t ht
    exact ⟨u, (run_next hstep n).trans hrun, hu, hfault.trans (step_keeps_fault hstep)⟩

/-! ## A recorded fault stands past further faults (R172) -/

theorem advance_keeps_recorded {s : State} {r : Fault} (h : s.fault = some r) : (advance s).fault = some r := by
  rw [advance]
  split
  · next t ht => exact (step_keeps_fault ht).trans h
  · simp [h]
  · exact h

/-- Settles O18: no instruction writes the record, and the carry-on past a fault records only where nothing stands. -/
theorem recordedFaultIsKeptForGood : Obligations.RecordedFaultIsKeptForGood := by
  refine ⟨fun _ _ _ => exec_keeps_fault, fun n => ?_⟩
  induction n with
  | zero => exact fun _ _ h => h
  | succ n ih => exact fun s r h => ih (advance s) r (advance_keeps_recorded h)

end Sys2Proof.Machine
